-- ==== Sys2Proof/Word.lean ====
section
/-! DEFINITION. The word types of CORE and the one operand type that is a set of names.

Widths: spec/00_scope.md R7 (a byte is 8 bits, the timeout 16 bits), spec/30_encoding.md R81 (a command
word is 32 bits), spec/20_memory.md R61 (registers are 8 or 16 bits wide). -/

namespace Sys2Proof

/-- A command word (R81). -/
abbrev Word := BitVec 32

/-- A data byte, or an 8-bit register (R7, R61). -/
abbrev Byte := BitVec 8

/-- A 16-bit register: the divisor, the period, the counter (R61). -/
abbrev Half := BitVec 16

/-- The parity operand `PAR` of `SERIAL_INIT` (R88): the source's three modes, and `unmatched`, which "stands
for every unmatched parity value". -/
inductive Parity where
  | none
  | even
  | odd
  | unmatched
  deriving DecidableEq, Repr

end Sys2Proof
end

