-- ==== Sys2Proof/Syntax.lean ====
section
/-! DEFINITION. The commands of CORE: one constructor per row of spec/opcode_table.json, in the table's order
(spec/30_encoding.md R81). Operands are as R88 reads them: the rate, the number of data bits, the port and
the timeout are natural numbers, the byte is bits, the enables are booleans. -/

namespace Sys2Proof

/-- A command (R81). Which operand values a word can carry is `Instr.WellFormed`. -/
inductive Instr where
  /-- `SERIAL_INIT par, dbits, port, baud` (R100). -/
  | serialInit (par : Parity) (dbits port baud : Nat)
  /-- `SERIAL_SET_ENABLED rx, tx` (R102). -/
  | serialSetEnabled (rx tx : Bool)
  /-- `SERIAL_WRITE_BYTE byte` (R103). -/
  | serialWriteByte (byte : Byte)
  /-- `SERIAL_READ_BYTE` (R104). -/
  | serialReadByte
  /-- `TIMER_INIT ticks` (R120). -/
  | timerInit (ticks : Nat)
  /-- `TIMER_ENABLE` (R122). -/
  | timerEnable
  /-- `TIMER_DISABLE` (R123). -/
  | timerDisable
  /-- `IRQ_GLOBAL en` (R140). -/
  | irqGlobal (en : Bool)
  /-- `CB_RET` (R141). -/
  | cbRet
  deriving DecidableEq, Repr

end Sys2Proof
end

