-- ==== Sys2Proof/WellFormed.lean ====
section
/-! DEFINITION. Which commands a command word can carry: each natural operand fits its field
(spec/30_encoding.md R82, R86, R88). The other operands fit by their types
(log entry 18). -/

namespace Sys2Proof

/-- Every natural operand fits the field R88 gives it: `DBITS` 4 bits, `PORT` 2 bits, `BAUD` 20 bits, `TICKS`
16 bits. -/
def Instr.wellFormed : Instr → Bool
  | .serialInit _ dbits port baud =>
      decide (dbits < 16) && decide (port < 4) && decide (baud < 1048576)
  | .serialSetEnabled _ _ => true
  | .serialWriteByte _ => true
  | .serialReadByte => true
  | .timerInit ticks => decide (ticks < 65536)
  | .timerEnable => true
  | .timerDisable => true
  | .irqGlobal _ => true
  | .cbRet => true

/-- The command fits a command word. -/
abbrev Instr.WellFormed (i : Instr) : Prop := i.wellFormed = true

end Sys2Proof
end

