-- ==== Sys2Proof/Decode.lean ====
section
/-! DEFINITION. From a command word to a command or the verdict "invalid", and back (spec/30_encoding.md
R81 to R89). Total on every word; a word is one 32-bit value and has no byte order (spec/20_memory.md R62). -/

namespace Sys2Proof

/-- The operand code of a parity value (R88). -/
def Parity.code : Parity → BitVec 2
  | .none => 0
  | .even => 1
  | .odd => 2
  | .unmatched => 3

/-- The parity value of an operand code (R88). -/
def Parity.ofCode (c : BitVec 2) : Parity :=
  match c.toNat with
  | 0 => .none
  | 1 => .even
  | 2 => .odd
  | _ => .unmatched

/-- Why a word is a reserved encoding (R89). -/
inductive Reserved where
  /-- `OP` is 0 or 10 to 15. -/
  | opcode
  /-- A bit the format marks zero is 1. -/
  | mustBeZero
  deriving DecidableEq, Repr

/-- The decoder's verdict on a word. -/
inductive Decoded where
  | instr (i : Instr)
  | invalid (why : Reserved)
  deriving DecidableEq, Repr

/-- The command a verdict names, if it names one. -/
def Decoded.toOption : Decoded → Option Instr
  | .instr i => some i
  | .invalid _ => none

/-- `CW[lo + len - 1 : lo]` (R11, R81). -/
def field (w : Word) (lo len : Nat) : BitVec len := w.extractLsb' lo len

/-- The opcode `OP`, bits 31:28 (R81). -/
def opcode (w : Word) : Nat := (field w 28 4).toNat

/-- The command `i` if the bits the format marks zero are zero, else "invalid" (R89). -/
def ifZero (zero : Bool) (i : Instr) : Decoded :=
  if zero then .instr i else .invalid .mustBeZero

/-- The decoder: formats SI, EN, B, N, T, G of R82 to R87 chosen by `OP` (R81). -/
def decode (w : Word) : Decoded :=
  match opcode w with
  | 1 => .instr (.serialInit (Parity.ofCode (field w 26 2)) (field w 22 4).toNat (field w 20 2).toNat
          (field w 0 20).toNat)
  | 2 => ifZero (field w 2 26 == 0) (.serialSetEnabled (w.getLsbD 1) (w.getLsbD 0))
  | 3 => ifZero (field w 8 20 == 0) (.serialWriteByte (field w 0 8))
  | 4 => ifZero (field w 0 28 == 0) .serialReadByte
  | 5 => ifZero (field w 16 12 == 0) (.timerInit (field w 0 16).toNat)
  | 6 => ifZero (field w 0 28 == 0) .timerEnable
  | 7 => ifZero (field w 0 28 == 0) .timerDisable
  | 8 => ifZero (field w 1 27 == 0) (.irqGlobal (w.getLsbD 0))
  | 9 => ifZero (field w 0 28 == 0) .cbRet
  | _ => .invalid .opcode

/-- The word of a command, written from the format tables R82 to R87: the opcode, then the fields from high
bits to low. -/
def encode : Instr → Word
  | .serialInit par dbits port baud =>
      1#4 ++ par.code ++ BitVec.ofNat 4 dbits ++ BitVec.ofNat 2 port ++ BitVec.ofNat 20 baud
  | .serialSetEnabled rx tx => 2#4 ++ 0#26 ++ BitVec.ofBool rx ++ BitVec.ofBool tx
  | .serialWriteByte byte => 3#4 ++ 0#20 ++ byte
  | .serialReadByte => 4#4 ++ 0#28
  | .timerInit ticks => 5#4 ++ 0#12 ++ BitVec.ofNat 16 ticks
  | .timerEnable => 6#4 ++ 0#28
  | .timerDisable => 7#4 ++ 0#28
  | .irqGlobal en => 8#4 ++ 0#27 ++ BitVec.ofBool en
  | .cbRet => 9#4 ++ 0#28

/-- A row of spec/opcode_table.json: a word is the row's command when its bits under `mask` are `value`. -/
structure OpcodeRow where
  mnemonic : String
  value : Word
  mask : Word
  deriving DecidableEq, Repr

/-- The row of spec/opcode_table.json a command belongs to ("match" and "mask" copied from it). It is no part
of `decode`: the agreement of the two is a claim. -/
def Instr.row : Instr → OpcodeRow
  | .serialInit _ _ _ _ => ⟨"SERIAL_INIT", 0x10000000, 0xF0000000⟩
  | .serialSetEnabled _ _ => ⟨"SERIAL_SET_ENABLED", 0x20000000, 0xFFFFFFFC⟩
  | .serialWriteByte _ => ⟨"SERIAL_WRITE_BYTE", 0x30000000, 0xFFFFFF00⟩
  | .serialReadByte => ⟨"SERIAL_READ_BYTE", 0x40000000, 0xFFFFFFFF⟩
  | .timerInit _ => ⟨"TIMER_INIT", 0x50000000, 0xFFFF0000⟩
  | .timerEnable => ⟨"TIMER_ENABLE", 0x60000000, 0xFFFFFFFF⟩
  | .timerDisable => ⟨"TIMER_DISABLE", 0x70000000, 0xFFFFFFFF⟩
  | .irqGlobal _ => ⟨"IRQ_GLOBAL", 0x80000000, 0xFFFFFFFE⟩
  | .cbRet => ⟨"CB_RET", 0x90000000, 0xFFFFFFFF⟩

/-- The nine rows, in the table's order. -/
def opcodeTable : List OpcodeRow :=
  [Instr.row (.serialInit .none 0 0 0), Instr.row (.serialSetEnabled false false),
   Instr.row (.serialWriteByte 0), Instr.row .serialReadByte, Instr.row (.timerInit 0),
   Instr.row .timerEnable, Instr.row .timerDisable, Instr.row (.irqGlobal false), Instr.row .cbRet]

/-- The word whose low `nbits` bits are those of `w`, the bits above zero. -/
def tableWord (nbits w : Nat) : Word := BitVec.ofNat 32 (w % 2 ^ nbits)

/-- The command the decoder reads from a row's bits. -/
def decodeTableWord (nbits w : Nat) : Option Instr := (decode (tableWord nbits w)).toOption

end Sys2Proof
end

