-- ==== Sys2Proof/Config.lean ====
section
/-! DEFINITION. What is fixed for a run: the implementation parameters of spec/00_scope.md R6, and the free
values of R10.

The parameters are "arguments of the step relation" (spec/10_state.md R41): every operation that reads one
takes a `Params`, and the machine's own parameters are `Config.params`, a constant about which nothing is
known, so that a statement about the machine holds for every value of every parameter (log entry 10).
A free value is an opaque function of a counter that State holds (log entry 6). -/

namespace Sys2Proof

/-- The three interrupt sources (R172). -/
inductive Source where
  /-- Transmit data empty, vector 1, `onTransmitterEmpty`. -/
  | txe
  /-- Receive complete, vector 2, `onByteReceived`. -/
  | rx
  /-- Timer overflow, vector 3, `onTimerExpired`. -/
  | tmr
  deriving DecidableEq, Repr

/-- A total order of the three sources, named from the first served to the last (R175). -/
inductive Priority where
  | txeRxTmr
  | txeTmrRx
  | rxTxeTmr
  | rxTmrTxe
  | tmrTxeRx
  | tmrRxTxe
  deriving DecidableEq, Repr, Inhabited

/-- The parameter `IRQ_ORDER` (R6, R175): `any` (the default), or a total order. -/
inductive IrqOrder where
  | any
  | total (order : Priority)
  deriving DecidableEq, Repr, Inhabited

/-- The implementation parameters of R6. `BAUD_W` and `TW` are the spec's fixed 16 and stand as the width of
`Half`. -/
structure Params where
  /-- `F_PER`, the peripheral clock in hertz, at least 1. -/
  fPer : ℕ+
  /-- `PRESC_SEL`, the code `TIMER_ENABLE` writes to `T_CTRL.CLKSEL`. -/
  prescSel : BitVec 3
  /-- `TICK_COUNTS`, timer counts per 50-microsecond tick, at least 1. -/
  tickCounts : ℕ+
  /-- `IRQ_ORDER`. -/
  irqOrder : IrqOrder
  /-- `RX_FLUSH_ON_DISABLE`: whether clearing `RXEN` clears `RXC`. -/
  rxFlushOnDisable : Bool
  /-- `HAS_DIR_LINE`: no rule reads it. -/
  hasDirLine : Bool
  deriving DecidableEq, Repr, Inhabited

/-- The spec's illustrative values (spec/95_test_vectors.md, first paragraph; spec/91_not_in_source.md N27),
with `IRQ_ORDER` = any and the defaults of R6. Used by worked examples only. -/
def Params.illustrative : Params :=
  { fPer := 16000000, prescSel := 4, tickCounts := 50, irqOrder := .any, rxFlushOnDisable := true,
    hasDirLine := false }

/-- The machine's parameters (R6). No body: a claim holds for every value. -/
opaque Config.params : Params

/-- `any_16` at its `n`-th occurrence (R10, R101, R121). -/
opaque Config.freeHalf : Nat → Half

/-- `any_8` at its `n`-th occurrence (R10, R104). -/
opaque Config.freeByte : Nat → Byte

/-- The order in which the dispatcher looks at the sources at its `n`-th free choice, when `IRQ_ORDER` = any
(R175). -/
opaque Config.freeOrder : Nat → Priority

/-- The parity bit of a character sent with `PMODE` = 3, which R153 says does not occur (log entry 11). -/
opaque Config.freeParity : Nat → Option (BitVec 1)

end Sys2Proof
end

