-- ==== Sys2Proof/Machine/State.lean ====
section
/-! DEFINITION. The state of CORE: exactly what spec/10_state.md R20 lists, in the three groups of its sections
2, 3 and 4, and three fields of the model's own (INVENTORY.md, "State"). A register is the bit vector of its
width; its fields are read by the accessors of Machine/Operands.lean. -/

namespace Sys2Proof.Machine

/-- The Serial Transport's state (spec/10_state.md section 2). -/
structure Uart where
  /-- `U_BAUD`, register 0 (R21). -/
  baud : Half
  /-- `U_CTRL`, register 1: `RXEN` 0, `TXEN` 1, `RXIE` 2, `TXEIE` 3 (R22). -/
  ctrl : Byte
  /-- `U_FRAME`, register 2: `PMODE` 1:0, `CHSIZE` 2 (R23). -/
  frame : Byte
  /-- `U_STATUS`, register 3: `RXC` 0, `TXE` 1 (R24). -/
  status : Byte
  /-- `U_TXDATA`, register 4 (R25). -/
  txdata : Byte
  /-- `U_RXDATA`, register 5 (R26). -/
  rxdata : Byte
  /-- `RX_BUSY`, hidden: the receiver is inside a character (R27). -/
  rxBusy : Bool
  /-- `U_INIT`, ghost: `SERIAL_INIT` has been executed (R28). -/
  uInit : Bool
  deriving DecidableEq, Repr

/-- The Timeout Timer's state (spec/10_state.md section 3). -/
structure Timer where
  /-- `T_CFG`, register 6 (R30). -/
  cfg : Half
  /-- `T_CTRL`, register 7: `RUN` 0, `CLKSEL` 3:1 (R31). -/
  ctrl : Byte
  /-- `T_INTCTRL`, register 8: `OVIE` 0 (R32). -/
  intctrl : Byte
  /-- `T_INTFLAGS`, register 9: `OVF` 0 (R33). -/
  intflags : Byte
  /-- `T_PER`, register 10 (R34). -/
  per : Half
  /-- `T_CNT`, register 11 (R35). -/
  cnt : Half
  /-- `T_INIT`, ghost: `TIMER_INIT` has been executed (R36). -/
  tInit : Bool
  deriving DecidableEq, Repr

/-- The interrupt controller's state (spec/10_state.md section 4). -/
structure Irq where
  /-- `I_CTRL`, register 12: `GIE` 0 (R39). -/
  ctrl : Byte
  /-- `I_SVC`, register 13: `SRC` 1:0 (R40). -/
  svc : Byte
  deriving DecidableEq, Repr

/-- The fourteen registers of the register-number space, in the order of their numbers (R60, R61). -/
inductive Reg where
  | uBaud | uCtrl | uFrame | uStatus | uTxdata | uRxdata
  | tCfg | tCtrl | tIntctrl | tIntflags | tPer | tCnt
  | iCtrl | iSvc
  deriving DecidableEq, Repr

/-- The contract-violation codes (spec/60_exceptions.md R171). -/
inductive CvCode where
  | cv1 | cv2 | cv3 | cv4 | cv5
  deriving DecidableEq, Repr

/-- What CORE emits (spec/30_encoding.md R90 to R92). -/
inductive Output where
  /-- `response(v)` (R90). -/
  | response (v : Byte)
  /-- `callback(v)`, with `v` the vector number of the source (R91). -/
  | callback (s : Source)
  /-- `line(d, p)`: the data bits of a character and its parity bit, `none` when no parity bit is sent
  (R92). -/
  | line (d : Byte) (p : Option (BitVec 1))
  deriving DecidableEq, Repr

/-- The hardware events (spec/43_hardware_events.md R150 to R154). -/
inductive HwEvent where
  /-- `RX_START`. -/
  | rxStart
  /-- `RX_COMPLETE(b)`. -/
  | rxComplete (b : Byte)
  /-- `TX_DRAIN`. -/
  | txDrain
  /-- `TCLK`. -/
  | tclk
  deriving DecidableEq, Repr

/-- One turn of one agent (spec/00_scope.md R9). -/
inductive Turn where
  /-- The engine presents the command word `w`. -/
  | engine (w : Word)
  /-- The receiver, the transmitter or the timer clock steps. -/
  | hardware (e : HwEvent)
  /-- The dispatcher takes the source `s`. -/
  | dispatcher (s : Source)
  deriving DecidableEq, Repr

/-- What a turn comes to in a state: the step that is possible then, if any (R9, R155, R174, R176). -/
inductive Action where
  /-- No step of CORE. -/
  | idle
  /-- The engine's word is accepted and is a reserved encoding. -/
  | reserved
  /-- The engine's word is accepted and is the command `i`. -/
  | command (i : Instr)
  /-- A hardware event. -/
  | event (e : HwEvent)
  /-- `DISPATCH(s)`. -/
  | dispatch (s : Source)
  deriving DecidableEq, Repr

/-- Why a step has no next state because the source calls the behaviour undefined (R10, R171). -/
inductive Fault where
  /-- CV2. Raised by `SERIAL_WRITE_BYTE` when `U_STATUS.TXE` = 0 (R103): "undefined at this layer". Safe: the
  hardware does something the source does not say, and no claim is made of the run. -/
  | writeNotFree
  deriving DecidableEq, Repr

/-- Why a step has no next state because the spec gives it no meaning (R10, R171). -/
inductive Refusal where
  /-- Raised by `exec` for a command that has no meaning in the model; no arm raises it. Safe. -/
  | notModelled (mnemonic : String)
  /-- CV1. Raised by `SERIAL_SET_ENABLED`, `SERIAL_WRITE_BYTE`, `SERIAL_READ_BYTE` when `U_INIT` = 0, and by
  `TIMER_ENABLE`, `TIMER_DISABLE` when `T_INIT` = 0 (R171). Safe: no claim is made of the run. -/
  | useBeforeInit
  /-- CV4. Raised by `CB_RET` in main context (R141). Safe: the command is the spec's own. -/
  | returnInMain
  /-- CV5. Raised by the step for a reserved encoding (R89). Safe: the encoding is the spec's own. -/
  | reservedEncoding
  deriving DecidableEq, Repr

/-- The state of CORE (R20). -/
structure State where
  /-- Registers 0 to 5, `RX_BUSY`, `U_INIT`. -/
  uart : Uart
  /-- Registers 6 to 11, `T_INIT`. -/
  timer : Timer
  /-- Registers 12 and 13. -/
  irq : Irq
  /-- `CV_LOG`, ghost: the set of violations recorded, its codes rising (R43). -/
  cvLog : List CvCode
  /-- The model's own: how many free values have been drawn (R10; log entry 6). -/
  freeCount : Nat
  /-- The model's own: the output trace, oldest first; no rule reads it (R41, R92; log entry 14). -/
  trace : List Output
  /-- The model's own: the agents' turns, next one first (R9, R155; log entry 1). -/
  turns : List Turn
  deriving DecidableEq, Repr

/-- The state after power-on (R44). `U_TXDATA` and `U_RXDATA` are unspecified there and 0 here (log entry 5);
no turn is listed and nothing has been emitted (log entries 1, 14). -/
def State.reset : State :=
  { uart := { baud := 0, ctrl := 0x00, frame := 0x00, status := 0x02, txdata := 0, rxdata := 0,
              rxBusy := false, uInit := false }
    timer := { cfg := 0, ctrl := 0x00, intctrl := 0x00, intflags := 0x00, per := 0, cnt := 0,
               tInit := false }
    irq := { ctrl := 0x00, svc := 0x00 }
    cvLog := []
    freeCount := 0
    trace := []
    turns := [] }

end Sys2Proof.Machine
end

