-- ==== Sys2Proof/Machine/Operands.lean ====
section
/-! DEFINITION. Fields of registers, and how a command's operands become register values: the bit-field
helpers, the named accessors of every field of spec/10_state.md R20, the frame operands of `SERIAL_INIT`
(R100), the divisor (R101) and the period (R121). -/

namespace Sys2Proof.Machine

/-! ### Bit fields (R11) -/

/-- `r` with the `n`-bit field that starts at bit `lo` replaced by `v`, every other bit kept. -/
def putField {n : Nat} (r : Byte) (lo : Nat) (v : BitVec n) : Byte :=
  (r &&& ~~~(((BitVec.allOnes n).setWidth 8) <<< lo)) ||| ((v.setWidth 8) <<< lo)

/-- `r` with bit `k` replaced by `b`. -/
def putBit (r : Byte) (k : Nat) (b : Bool) : Byte := putField r k (BitVec.ofBool b)

/-- The low seven bits, bit 7 zero: `0 ++ v[6:0]` (R151, R152). -/
def sevenBits (v : Byte) : Byte := 0#1 ++ v.extractLsb' 0 7

/-! ### The fields of the Serial Transport (R22 to R24) -/

/-- `U_CTRL.RXEN`. -/
def Uart.rxen (u : Uart) : Bool := u.ctrl.getLsbD 0
/-- `U_CTRL.TXEN`. -/
def Uart.txen (u : Uart) : Bool := u.ctrl.getLsbD 1
/-- `U_CTRL.RXIE`. -/
def Uart.rxie (u : Uart) : Bool := u.ctrl.getLsbD 2
/-- `U_CTRL.TXEIE`. -/
def Uart.txeie (u : Uart) : Bool := u.ctrl.getLsbD 3
/-- `U_FRAME.PMODE`: 0 no parity, 1 even, 2 odd. -/
def Uart.pmode (u : Uart) : BitVec 2 := u.frame.extractLsb' 0 2
/-- `U_FRAME.CHSIZE`: false 7 data bits, true 8. -/
def Uart.chsize (u : Uart) : Bool := u.frame.getLsbD 2
/-- `U_STATUS.RXC`. -/
def Uart.rxc (u : Uart) : Bool := u.status.getLsbD 0
/-- `U_STATUS.TXE`. -/
def Uart.txe (u : Uart) : Bool := u.status.getLsbD 1

/-- `U_STATUS.RXC <- b`. -/
def Uart.setRxc (b : Bool) (u : Uart) : Uart := { u with status := putBit u.status 0 b }
/-- `U_STATUS.TXE <- b`. -/
def Uart.setTxe (b : Bool) (u : Uart) : Uart := { u with status := putBit u.status 1 b }
/-- `U_FRAME.CHSIZE <- b`. -/
def Uart.setChsize (b : Bool) (u : Uart) : Uart := { u with frame := putBit u.frame 2 b }
/-- `U_FRAME.PMODE <- m`. -/
def Uart.setPmode (m : BitVec 2) (u : Uart) : Uart := { u with frame := putField u.frame 0 m }

/-- The value of `U_CTRL` with the four fields given and bits 7:4 zero (R22). -/
def ctrlValue (rxen txen rxie txeie : Bool) : Byte :=
  0#4 ++ BitVec.ofBool txeie ++ BitVec.ofBool rxie ++ BitVec.ofBool txen ++ BitVec.ofBool rxen

/-! ### The fields of the Timeout Timer (R31 to R33) -/

/-- `T_CTRL.RUN`. -/
def Timer.run (t : Timer) : Bool := t.ctrl.getLsbD 0
/-- `T_CTRL.CLKSEL`. No rule reads it (R31). -/
def Timer.clksel (t : Timer) : BitVec 3 := t.ctrl.extractLsb' 1 3
/-- `T_INTCTRL.OVIE`. -/
def Timer.ovie (t : Timer) : Bool := t.intctrl.getLsbD 0
/-- `T_INTFLAGS.OVF`. -/
def Timer.ovf (t : Timer) : Bool := t.intflags.getLsbD 0

/-- `T_CTRL.RUN <- b`. -/
def Timer.setRun (b : Bool) (t : Timer) : Timer := { t with ctrl := putBit t.ctrl 0 b }
/-- `T_INTCTRL.OVIE <- b`. -/
def Timer.setOvie (b : Bool) (t : Timer) : Timer := { t with intctrl := putBit t.intctrl 0 b }
/-- `T_INTFLAGS.OVF <- b`. -/
def Timer.setOvf (b : Bool) (t : Timer) : Timer := { t with intflags := putBit t.intflags 0 b }

/-- The value of `T_CTRL` with `CLKSEL` and `RUN` given and bits 7:4 zero (R31). -/
def timerCtrlValue (clksel : BitVec 3) (run : Bool) : Byte := 0#4 ++ clksel ++ BitVec.ofBool run

/-! ### The fields of the interrupt controller (R39, R40) -/

/-- `I_CTRL.GIE`. -/
def Irq.gie (q : Irq) : Bool := q.ctrl.getLsbD 0
/-- `I_SVC.SRC`. -/
def Irq.src (q : Irq) : BitVec 2 := q.svc.extractLsb' 0 2
/-- `I_CTRL.GIE <- b`. -/
def Irq.setGie (b : Bool) (q : Irq) : Irq := { q with ctrl := putBit q.ctrl 0 b }
/-- `I_SVC.SRC <- n`. -/
def Irq.setSrc (n : BitVec 2) (q : Irq) : Irq := { q with svc := putField q.svc 0 n }

/-! ### Operands of `SERIAL_INIT` and `TIMER_INIT` -/

/-- The `DBITS` operand: 8 and 7 write `CHSIZE`, any other value leaves it unchanged (R100). -/
def Uart.programChsize (dbits : Nat) (u : Uart) : Uart :=
  if dbits = 8 then u.setChsize true else if dbits = 7 then u.setChsize false else u

/-- The `PAR` operand: none, even, odd write `PMODE`, an unmatched value leaves it unchanged (R100). -/
def Uart.programPmode (par : Parity) (u : Uart) : Uart :=
  match par with
  | .none => u.setPmode 0
  | .even => u.setPmode 1
  | .odd => u.setPmode 2
  | .unmatched => u

/-- The quotient `q` of R101: `F_PER` divided by 16 times the rate, rounded down. -/
def baudQuotient (clock rate : Nat) : Nat := clock / (16 * rate)

/-- A pair is valid when the rate is at least 1 and the quotient is 1 to 65536 (R101). -/
def validPair (clock rate : Nat) : Bool :=
  decide (1 ≤ rate) && decide (1 ≤ baudQuotient clock rate) && decide (baudQuotient clock rate ≤ 65536)

/-- The baud divisor (R101); `free` stands for `any_16` when the pair is not valid (log entry 8). -/
def divisor (clock rate : Nat) (free : Half) : Half :=
  if validPair clock rate then BitVec.ofNat 16 (baudQuotient clock rate - 1) else free

/-- The period in counts (R121); `free` stands for `any_16` when the product does not fit (log entry 9). -/
def period (tickCounts ticks : Nat) (free : Half) : Half :=
  if ticks * tickCounts ≤ 65535 then BitVec.ofNat 16 (ticks * tickCounts) else free

end Sys2Proof.Machine
end

