-- ==== Sys2Proof/Machine/Flags.lean ====
section
/-! DEFINITION. What is computed from the flags: the predicates of spec/10_state.md R42, the choice of a source
(spec/60_exceptions.md R174, R175), the step a turn comes to (R176), the parity bit (spec/43_hardware_events.md
R153) and the states of the timer (spec/10_state.md R37). -/

namespace Sys2Proof

/-- The vector number of a source, which `I_SVC.SRC` holds while its callback runs (R91, R172). -/
def Source.number : Source → BitVec 2
  | .txe => 1
  | .rx => 2
  | .tmr => 3

/-- A total order as the list of sources, the first served first (R175). -/
def Priority.toList : Priority → List Source
  | .txeRxTmr => [.txe, .rx, .tmr]
  | .txeTmrRx => [.txe, .tmr, .rx]
  | .rxTxeTmr => [.rx, .txe, .tmr]
  | .rxTmrTxe => [.rx, .tmr, .txe]
  | .tmrTxeRx => [.tmr, .txe, .rx]
  | .tmrRxTxe => [.tmr, .rx, .txe]

end Sys2Proof

namespace Sys2Proof.Machine

/-! ### Pending, enabled, deliverable (R42) -/

/-- `pending(s)`: the flag of the source. -/
def State.pending (s : State) : Source → Bool
  | .txe => s.uart.txe
  | .rx => s.uart.rxc
  | .tmr => s.timer.ovf

/-- `enabled(s)`: the enable bit of the source. -/
def State.enabled (s : State) : Source → Bool
  | .txe => s.uart.txeie
  | .rx => s.uart.rxie
  | .tmr => s.timer.ovie

/-- `deliverable(s)`: flag and enable bit are both 1. -/
def State.deliverable (s : State) (src : Source) : Bool := s.pending src && s.enabled src

/-- The deliverable sources, in the order of their numbers. -/
def State.deliverables (s : State) : List Source := [Source.txe, .rx, .tmr].filter s.deliverable

/-- `any_deliverable`. -/
def State.anyDeliverable (s : State) : Bool :=
  s.deliverable .txe || s.deliverable .rx || s.deliverable .tmr

/-- Main context: `I_SVC.SRC` = 0 (R179). -/
def State.inMain (s : State) : Bool := s.irq.src == 0

/-- `can_dispatch`. -/
def State.canDispatch (s : State) : Bool := s.irq.gie && s.inMain && s.anyDeliverable

/-! ### Which source is taken (R174, R175) -/

/-- The deliverable source that comes first in a total order. -/
def State.first (s : State) (order : Priority) : Option Source := order.toList.find? s.deliverable

/-- `s` is allowed by `IRQ_ORDER`: with `any`, every source; with a total order, the deliverable source that
comes first in it. The sole deliverable source is allowed by every order (`State.allowed_eq` in
Laws/Flags.lean says the first alternative adds nothing for a deliverable source; it lets a step be evaluated
where the order cannot matter). -/
def State.allowed (s : State) (order : IrqOrder) (src : Source) : Bool :=
  s.deliverables == [src] ||
    match order with
    | .any => true
    | .total o => s.first o == some src

/-- `DISPATCH(src)` is enabled (R174). -/
def State.dispatchable (s : State) (p : Params) (src : Source) : Bool :=
  s.canDispatch && s.deliverable src && s.allowed p.irqOrder src

/-- The source the dispatcher takes before a command that is not yet accepted: the sole deliverable source, or
the first one in `IRQ_ORDER`, or, when that is `any`, the first in an order about which nothing is known
(log entry 4). -/
def State.chosen (s : State) (p : Params) : Option Source :=
  match s.deliverables with
  | [src] => some src
  | _ =>
    match p.irqOrder with
    | .any => s.first (Config.freeOrder s.freeCount)
    | .total o => s.first o

/-! ### What a turn comes to (R9, R155, R174, R176) -/

/-- The engine's next word is not accepted yet: main context, and a dispatch is possible (R176). -/
def State.holds (s : State) : Bool :=
  match s.turns with
  | .engine _ :: _ => s.canDispatch
  | .hardware _ :: _ => false
  | .dispatcher _ :: _ => false
  | [] => false

/-- The step the next turn comes to. A word the engine presents is accepted unless `can_dispatch` holds, which
needs main context; then the dispatcher goes first (R176). A dispatcher's turn whose `DISPATCH` is not enabled
comes to nothing (log entry 3), and so does the absence of a turn (log entry 1). -/
def State.action (s : State) (p : Params) : Action :=
  match s.turns with
  | [] => .idle
  | .engine w :: _ =>
      if s.canDispatch then
        match s.chosen p with
        | some src => .dispatch src
        | none => .idle
      else
        match decode w with
        | .instr i => .command i
        | .invalid _ => .reserved
  | .hardware e :: _ => .event e
  | .dispatcher src :: _ => if s.dispatchable p src then .dispatch src else .idle

/-- The state in which that step is taken: the turn is used up, but a word not accepted stays the next turn,
and the order in which the dispatcher looked at the sources counts as one free value drawn. -/
def State.afterTurn (s : State) : State :=
  if s.holds then { s with freeCount := s.freeCount + 1 } else { s with turns := s.turns.tail }

/-! ### The parity bit (R153) -/

/-- The number of 1 bits of a byte (R11). -/
def popcount (d : Byte) : Nat := (List.range 8).countP (fun k => d.getLsbD k)

/-- The parity bit of the data bits `d` (R153, general knowledge, log entry 12): no bit; the bit that makes the
number of 1s even; the bit that makes it odd. `free` stands for the bit of `PMODE` = 3, which does not occur
(log entry 11). -/
def parityBit (mode : BitVec 2) (d : Byte) (free : Option (BitVec 1)) : Option (BitVec 1) :=
  match mode.toNat with
  | 0 => none
  | 1 => some (BitVec.ofNat 1 (popcount d % 2))
  | 2 => some (BitVec.ofNat 1 (1 - popcount d % 2))
  | _ => free

/-! ### The states of the timer (R37) -/

/-- {Uninitialized}: `T_INIT` = 0. -/
def Timer.uninitialized (t : Timer) : Bool := !t.tInit
/-- {Disabled}: `T_INIT` = 1, `RUN` = 0, `OVIE` = 0. -/
def Timer.disabled (t : Timer) : Bool := t.tInit && !t.run && !t.ovie
/-- {Armed}: `RUN` = 1, `OVIE` = 1. -/
def Timer.armed (t : Timer) : Bool := t.run && t.ovie
/-- {Disabled-equivalent}: `RUN` = 1, `OVIE` = 0. -/
def Timer.disabledEquivalent (t : Timer) : Bool := t.run && !t.ovie

end Sys2Proof.Machine
end

