-- ==== Sys2Proof/Machine/Ops.lean ====
section
/-! DEFINITION. The operations the meanings share: the register-number space (spec/20_memory.md R60, R61), the
output trace, free values, `CV_LOG`, the set-enabled step (spec/40_serial_ops.md R102), and TAKING an interrupt
(`enterCallback`, R174) with the return beside it (`leaveCallback`, R141). -/

namespace Sys2Proof.Machine

/-! ### The register-number space (R60, R61) -/

/-- The number of a register. -/
def Reg.number : Reg → Nat
  | .uBaud => 0 | .uCtrl => 1 | .uFrame => 2 | .uStatus => 3 | .uTxdata => 4 | .uRxdata => 5
  | .tCfg => 6 | .tCtrl => 7 | .tIntctrl => 8 | .tIntflags => 9 | .tPer => 10 | .tCnt => 11
  | .iCtrl => 12 | .iSvc => 13

/-- The register with a number; numbers above 13 name none. -/
def Reg.ofNumber : Nat → Option Reg
  | 0 => some .uBaud | 1 => some .uCtrl | 2 => some .uFrame | 3 => some .uStatus
  | 4 => some .uTxdata | 5 => some .uRxdata | 6 => some .tCfg | 7 => some .tCtrl
  | 8 => some .tIntctrl | 9 => some .tIntflags | 10 => some .tPer | 11 => some .tCnt
  | 12 => some .iCtrl | 13 => some .iSvc
  | _ => none

/-- The width of a register in bits. -/
@[reducible] def Reg.width : Reg → Nat
  | .uBaud | .tCfg | .tPer | .tCnt => 16
  | .uCtrl | .uFrame | .uStatus | .uTxdata | .uRxdata => 8
  | .tCtrl | .tIntctrl | .tIntflags => 8
  | .iCtrl | .iSvc => 8

/-- `x[i]`: the whole register (R11, R63). -/
def State.read (s : State) : (r : Reg) → BitVec r.width
  | .uBaud => s.uart.baud
  | .uCtrl => s.uart.ctrl
  | .uFrame => s.uart.frame
  | .uStatus => s.uart.status
  | .uTxdata => s.uart.txdata
  | .uRxdata => s.uart.rxdata
  | .tCfg => s.timer.cfg
  | .tCtrl => s.timer.ctrl
  | .tIntctrl => s.timer.intctrl
  | .tIntflags => s.timer.intflags
  | .tPer => s.timer.per
  | .tCnt => s.timer.cnt
  | .iCtrl => s.irq.ctrl
  | .iSvc => s.irq.svc

/-- `x[i] <- v`: the whole register (R11, R63). -/
def State.write (s : State) : (r : Reg) → BitVec r.width → State
  | .uBaud, v => { s with uart := { s.uart with baud := v } }
  | .uCtrl, v => { s with uart := { s.uart with ctrl := v } }
  | .uFrame, v => { s with uart := { s.uart with frame := v } }
  | .uStatus, v => { s with uart := { s.uart with status := v } }
  | .uTxdata, v => { s with uart := { s.uart with txdata := v } }
  | .uRxdata, v => { s with uart := { s.uart with rxdata := v } }
  | .tCfg, v => { s with timer := { s.timer with cfg := v } }
  | .tCtrl, v => { s with timer := { s.timer with ctrl := v } }
  | .tIntctrl, v => { s with timer := { s.timer with intctrl := v } }
  | .tIntflags, v => { s with timer := { s.timer with intflags := v } }
  | .tPer, v => { s with timer := { s.timer with per := v } }
  | .tCnt, v => { s with timer := { s.timer with cnt := v } }
  | .iCtrl, v => { s with irq := { s.irq with ctrl := v } }
  | .iSvc, v => { s with irq := { s.irq with svc := v } }

/-- `MemRead(i, n)`: `x[i]` with `n` the register's width; no other access exists (R11, R63; log entry 16). -/
def State.memRead (s : State) (i n : Nat) : Option (BitVec n) :=
  match Reg.ofNumber i with
  | none => none
  | some r => if h : r.width = n then some ((s.read r).cast h) else none

/-- `MemWrite(i, n, v)`: `x[i] <- v` with `n` the register's width; no other access exists (R11, R63; log
entry 16). -/
def State.memWrite (s : State) (i n : Nat) (v : BitVec n) : Option State :=
  match Reg.ofNumber i with
  | none => none
  | some r => if h : n = r.width then some (s.write r (v.cast h)) else none

/-! ### Outputs, free values, `CV_LOG` -/

/-- `emit o`: append an output to the trace (R11). -/
def State.emit (s : State) (o : Output) : State := { s with trace := s.trace ++ [o] }

/-- One more free value has been drawn (R10). -/
def State.drawn (s : State) : State := { s with freeCount := s.freeCount + 1 }

/-- The place of a code in the order of `CV_LOG`'s list. -/
def CvCode.number : CvCode → Nat
  | .cv1 => 1
  | .cv2 => 2
  | .cv3 => 3
  | .cv4 => 4
  | .cv5 => 5

/-- `log + {c}`: a set as the list of its codes, rising (R43; log entry 19). -/
def insertCode (c : CvCode) : List CvCode → List CvCode
  | [] => [c]
  | d :: rest =>
      if c.number < d.number then c :: d :: rest
      else if c = d then d :: rest
      else d :: insertCode c rest

/-- The codes of a log rise, so it is the one list of its set. -/
def risingCodes : List CvCode → Bool
  | [] => true
  | [_] => true
  | c :: d :: rest => decide (c.number < d.number) && risingCodes (d :: rest)

/-- `CV_LOG <- CV_LOG + {c}` (R43). -/
def State.logViolation (s : State) (c : CvCode) : State := { s with cvLog := insertCode c s.cvLog }

/-! ### The set-enabled step (R102), performed by `SERIAL_SET_ENABLED` and by `SERIAL_INIT` -/

/-- `set_enabled(rx, tx)`. All four fields of `U_CTRL` are assigned from the operands and bits 7:4 are zero, so
the value read never reaches the value written (R65; log entry 13). -/
def setEnabled (p : Params) (rx tx : Bool) (u : Uart) : Uart :=
  let u := { u with ctrl := ctrlValue rx true rx tx }
  if rx then u
  else
    { u with rxBusy := false, status := if p.rxFlushOnDisable then putBit u.status 0 false else u.status }

/-! ### Taking an interrupt, and the return from it (R174, R177, R178) -/

/-- What `DISPATCH(src)` does to the timer: for `TMR` the flag and the enable bit are cleared (R174). -/
def acknowledge (src : Source) (t : Timer) : Timer :=
  match src with
  | .tmr => (t.setOvf false).setOvie false
  | .txe => t
  | .rx => t

/-- `DISPATCH(src)`: nothing is saved (R177); `I_SVC.SRC` names the source and its callback is emitted. -/
def enterCallback (src : Source) (s : State) : State :=
  { s with timer := acknowledge src s.timer, irq := s.irq.setSrc src.number }.emit (.callback src)

/-- The return from a callback: nothing is restored; `I_SVC.SRC` becomes 0 (R141, R178). -/
def leaveCallback (s : State) : State := { s with irq := s.irq.setSrc 0 }

end Sys2Proof.Machine
end

