-- ==== Sys2Proof/Machine/Serial.lean ====
section
/-! DEFINITION. The meanings of the four Serial Transport commands (spec/40_serial_ops.md). A meaning that reads a
parameter is written over `Params`, and the machine's is that at `Config.params`. -/

namespace Sys2Proof.Machine

/-- The Serial Transport after `SERIAL_INIT` (R100), `free` standing for `any_16`: divisor, character size, parity
mode, `set_enabled(0, 0)`, `U_INIT`. -/
def initUart (p : Params) (par : Parity) (dbits baud : Nat) (free : Half) (u : Uart) : Uart :=
  let u := { u with baud := divisor p.fPer baud free }
  let u := u.programChsize dbits
  let u := u.programPmode par
  let u := setEnabled p false false u
  { u with uInit := true }

/-- `SERIAL_INIT` (R100). `PORT` is decoded and ignored (R88). -/
def serialInit (p : Params) (par : Parity) (dbits _port baud : Nat) (s : State) : State :=
  let u := initUart p par dbits baud (Config.freeHalf s.freeCount) s.uart
  ({ s with uart := u }.drawn).emit (.response 0x01)

/-- `SERIAL_INIT` on this machine: never refused, always answers success (R100). -/
def execSerialInit (par : Parity) (dbits port baud : Nat) (s : State) : Host.Outcome State Fault Refusal :=
  .next (serialInit Config.params par dbits port baud s)

/-- `SERIAL_SET_ENABLED` (R102). -/
def serialSetEnabled (p : Params) (rx tx : Bool) (s : State) : Host.Outcome State Fault Refusal :=
  if s.uart.uInit then .next { s with uart := setEnabled p rx tx s.uart }
  else .refused .useBeforeInit

/-- `SERIAL_SET_ENABLED` on this machine. -/
def execSerialSetEnabled (rx tx : Bool) (s : State) : Host.Outcome State Fault Refusal :=
  serialSetEnabled Config.params rx tx s

/-- `SERIAL_WRITE_BYTE` (R103): CV1 before initialisation, CV2 when the register is not free; no readiness wait. -/
def execSerialWriteByte (byte : Byte) (s : State) : Host.Outcome State Fault Refusal :=
  if s.uart.uInit then
    if s.uart.txe then .next { s with uart := { s.uart with txdata := byte }.setTxe false }
    else .fault .writeNotFree
  else .refused .useBeforeInit

/-- `SERIAL_READ_BYTE` (R104). With no byte present the response is `any_8` (log entry 7) and CV3 is recorded. -/
def execSerialReadByte (s : State) : Host.Outcome State Fault Refusal :=
  if s.uart.uInit then
    if s.uart.rxc then .next ({ s with uart := s.uart.setRxc false }.emit (.response s.uart.rxdata))
    else .next (((s.logViolation .cv3).drawn).emit (.response (Config.freeByte s.freeCount)))
  else .refused .useBeforeInit

end Sys2Proof.Machine
end

