-- ==== Sys2Proof/Machine/System.lean ====
section
/-! DEFINITION. The meanings of the two interrupt-control commands (spec/42_system_ops.md). -/

namespace Sys2Proof.Machine

/-- `IRQ_GLOBAL` (R140). -/
def execIrqGlobal (en : Bool) (s : State) : Host.Outcome State Fault Refusal :=
  .next { s with irq := s.irq.setGie en }

/-- `CB_RET` (R141): refused in main context. -/
def execCbRet (s : State) : Host.Outcome State Fault Refusal :=
  if s.inMain then .refused .returnInMain else .next (leaveCallback s)

end Sys2Proof.Machine
end

