-- ==== Sys2Proof/Machine/Timeout.lean ====
section
/-! DEFINITION. The meanings of the three Timeout Timer commands (spec/41_timer_ops.md). -/

namespace Sys2Proof.Machine

/-- The timer after `TIMER_INIT` (R120), `free` standing for `any_16`: the control registers and the flags are 0,
`T_PER` and `T_CNT` are kept. -/
def initTimer (p : Params) (ticks : Nat) (free : Half) (t : Timer) : Timer :=
  { t with cfg := period p.tickCounts ticks free, ctrl := 0x00, intctrl := 0x00, intflags := 0x00, tInit := true }

/-- `TIMER_INIT` (R120). -/
def timerInit (p : Params) (ticks : Nat) (s : State) : State :=
  ({ s with timer := initTimer p ticks (Config.freeHalf s.freeCount) s.timer }.drawn).emit (.response 0x01)

/-- `TIMER_INIT` on this machine: never refused, always answers success. -/
def execTimerInit (ticks : Nat) (s : State) : Host.Outcome State Fault Refusal :=
  .next (timerInit Config.params ticks s)

/-- The timer after `TIMER_ENABLE` (R122): with a nonzero period the window starts afresh and the interrupt is
unmasked; in both cases the counter runs with the fixed prescaler. `OVF` is not touched. -/
def enableTimer (p : Params) (t : Timer) : Timer :=
  let t := if t.cfg ≠ 0 then { t with per := t.cfg, cnt := 0 }.setOvie true else t
  { t with ctrl := timerCtrlValue p.prescSel true }

/-- `TIMER_ENABLE` (R122). -/
def timerEnable (p : Params) (s : State) : Host.Outcome State Fault Refusal :=
  if s.timer.tInit then .next { s with timer := enableTimer p s.timer } else .refused .useBeforeInit

/-- `TIMER_ENABLE` on this machine. -/
def execTimerEnable (s : State) : Host.Outcome State Fault Refusal := timerEnable Config.params s

/-- The timer after `TIMER_DISABLE` (R123). -/
def disableTimer (t : Timer) : Timer := ((t.setRun false).setOvie false).setOvf false

/-- `TIMER_DISABLE` (R123). -/
def execTimerDisable (s : State) : Host.Outcome State Fault Refusal :=
  if s.timer.tInit then .next { s with timer := disableTimer s.timer } else .refused .useBeforeInit

end Sys2Proof.Machine
end

