-- ==== Sys2Proof/Machine/Dispatch.lean ====
section
/-! DEFINITION. One arm per command: its meaning (spec/opcode_table.json). -/

namespace Sys2Proof.Machine

/-- The effect of an accepted command. -/
def exec (i : Instr) (s : State) : Host.Outcome State Fault Refusal :=
  match i with
  | .serialInit par dbits port baud => Sys2Proof.Machine.execSerialInit par dbits port baud s
  | .serialSetEnabled rx tx => Sys2Proof.Machine.execSerialSetEnabled rx tx s
  | .serialWriteByte byte => Sys2Proof.Machine.execSerialWriteByte byte s
  | .serialReadByte => Sys2Proof.Machine.execSerialReadByte s
  | .timerInit ticks => Sys2Proof.Machine.execTimerInit ticks s
  | .timerEnable => Sys2Proof.Machine.execTimerEnable s
  | .timerDisable => Sys2Proof.Machine.execTimerDisable s
  | .irqGlobal en => Sys2Proof.Machine.execIrqGlobal en s
  | .cbRet => Sys2Proof.Machine.execCbRet s

end Sys2Proof.Machine
end

