-- ==== Sys2Proof/Machine/Events.lean ====
section
/-! DEFINITION. The four hardware events (spec/43_hardware_events.md). None can fault or be refused (R171); an event
that is not enabled has no effect at all (log entry 17). -/

namespace Sys2Proof.Machine

/-- `RX_START` (R150). -/
def rxStart (s : State) : State :=
  if s.uart.rxen && !s.uart.rxBusy then { s with uart := { s.uart with rxBusy := true } } else s

/-- `RX_COMPLETE(b)` (R151): the byte is stored whatever was pending; a character not accepted is lost. -/
def rxComplete (b : Byte) (s : State) : State :=
  if s.uart.rxBusy then
    { s with
      uart :=
        { s.uart with rxBusy := false, rxdata := if s.uart.chsize then b else sevenBits b }.setRxc true }
  else s

/-- The data bits the transmitter sends (R152). -/
def lineData (u : Uart) : Byte := if u.chsize then u.txdata else sevenBits u.txdata

/-- `TX_DRAIN` (R152). -/
def txDrain (s : State) : State :=
  if !s.uart.txe && s.uart.txen then
    let d := lineData s.uart
    let p := parityBit s.uart.pmode d (Config.freeParity s.freeCount)
    ({ s with uart := s.uart.setTxe true }.drawn).emit (.line d p)
  else s

/-- The timer after one count (R154): the increment wraps at 2^16, the comparison is for equality after it. -/
def countTimer (t : Timer) : Timer :=
  if t.run then
    if t.cnt + 1 = t.per then { t with cnt := 0 }.setOvf true else { t with cnt := t.cnt + 1 }
  else t

/-- `TCLK` (R154). -/
def tclk (s : State) : State := { s with timer := countTimer s.timer }

/-- A hardware event. -/
def hwEvent (e : HwEvent) (s : State) : State :=
  match e with
  | .rxStart => rxStart s
  | .rxComplete b => rxComplete b s
  | .txDrain => txDrain s
  | .tclk => tclk s

end Sys2Proof.Machine
end

