-- ==== Sys2Proof/Machine/Step.lean ====
section
/-! DEFINITION. One step of one agent (spec/00_scope.md R9, R10): what the next turn comes to in this state
(`State.action`, Machine/Flags.lean) is done in the state whose turn is used up (`State.afterTurn`). -/

namespace Sys2Proof.Machine

/-- One step of CORE. Where no step of CORE is possible the registers stay as they are (log entries 1, 3). -/
def step (s : State) : Host.Outcome State Fault Refusal :=
  match s.action Config.params with
  | .idle => .next s.afterTurn
  | .reserved => .refused .reservedEncoding
  | .command i => exec i s.afterTurn
  | .event e => .next (hwEvent e s.afterTurn)
  | .dispatch src => .next (enterCallback src s.afterTurn)

/-- `s` with the engine's turn to present the word put before every other turn. CORE stores no commands (R71), so
this is all there is to giving it one; the word is the next command executed unless main context and
`can_dispatch` let a dispatch go first (R176; log entry 15). -/
def State.withFetchWord (s : State) (nbits w : Nat) : State :=
  { s with turns := .engine (tableWord nbits w) :: s.turns }

end Sys2Proof.Machine
end

