-- ==== Sys2Proof/Safety.lean ====
section
/-! DEFINITION. The terms in which claims about runs are made: the invariant of the machine, runs, what a trace
holds, which commands a run executes, and which registers a step may write (spec/20_memory.md R61). -/

namespace Sys2Proof.Machine

/-! ### The invariant -/

/-- What the Serial Transport's state always meets (spec/10_state.md R20, R29). -/
structure Uart.Inv (u : Uart) : Prop where
  /-- `U_CTRL` bits 7:4 are zero (R20, R22). -/
  ctrlZero : u.ctrl.extractLsb' 4 4 = 0
  /-- `U_FRAME` bits 7:3 are zero (R20, R23). -/
  frameZero : u.frame.extractLsb' 3 5 = 0
  /-- `U_STATUS` bits 7:2 are zero (R20, R24). -/
  statusZero : u.status.extractLsb' 2 6 = 0
  /-- R29 (a). -/
  txenOnceInit : u.uInit = true → u.txen = true
  /-- R29 (b). -/
  rxenIsRxie : u.rxen = u.rxie
  /-- R29 (c). -/
  busyIsEnabled : u.rxBusy = true → u.rxen = true
  /-- R29 (d). -/
  pmodeLegal : u.pmode ≠ 3
  /-- Only `SERIAL_WRITE_BYTE` clears `TXE`, and it needs `U_INIT` = 1 (R152 (b)). -/
  waitingIsInit : u.txe = false → u.uInit = true

/-- What the timer's state always meets. -/
structure Timer.Inv (t : Timer) : Prop where
  /-- `T_CTRL` bits 7:4 are zero (R20, R31). -/
  ctrlZero : t.ctrl.extractLsb' 4 4 = 0
  /-- `T_INTCTRL` bits 7:1 are zero (R20, R32). -/
  intctrlZero : t.intctrl.extractLsb' 1 7 = 0
  /-- `T_INTFLAGS` bits 7:1 are zero (R20, R33). -/
  intflagsZero : t.intflags.extractLsb' 1 7 = 0
  /-- `RUN` = 0 with `OVIE` = 1 is not reachable (R37). -/
  unmaskedRuns : t.ovie = true → t.run = true
  /-- `OVIE` is 0 whenever `T_CFG` is 0 (R122 (c)). -/
  zeroIsMasked : t.cfg = 0 → t.ovie = false
  /-- `T_PER` = 0 or `T_CNT` < `T_PER` (R154 (e)). -/
  countBelow : t.per = 0 ∨ t.cnt.toNat < t.per.toNat
  /-- An uninitialised timer is stopped with nothing pending (R201). -/
  uninitStopped : t.tInit = false → t.run = false ∧ t.ovf = false

/-- What the interrupt controller's state always meets: bits 7:1 of `I_CTRL` and 7:2 of `I_SVC` are zero (R20,
R39, R40). -/
structure Irq.Inv (q : Irq) : Prop where
  ctrlZero : q.ctrl.extractLsb' 1 7 = 0
  svcZero : q.svc.extractLsb' 2 6 = 0

/-- The invariant of the machine. -/
structure State.Inv (s : State) : Prop where
  uart : s.uart.Inv
  timer : s.timer.Inv
  irq : s.irq.Inv
  /-- `CV_LOG` is in its canonical form (R43, log entry 19). -/
  log : risingCodes s.cvLog = true

/-! ### Runs and traces -/

/-- `k` steps, stopping at the first fault or refusal. -/
def run (k : Nat) (s : State) : Host.Outcome State Fault Refusal := Host.Core.run Sys2Proof.core k s

/-- No contract violation has been recorded: the premise R43 puts on every claim about a run's values. -/
def State.clean (s : State) : Prop := s.cvLog = []

/-- The output is a callback. -/
def Output.isCallback : Output → Bool
  | .response _ => false
  | .callback _ => true
  | .line _ _ => false

/-- How many callbacks a trace holds. -/
def callbacks (trace : List Output) : Nat := trace.countP Output.isCallback

/-- How many `onTimerExpired` callbacks a trace holds. -/
def expiries (trace : List Output) : Nat := trace.count (.callback .tmr)

/-- How many `TCLK` events the turns list. -/
def tclks (turns : List Turn) : Nat := turns.count (.hardware .tclk)

/-- One of the first `k` steps from `s` is the execution of the command `i`. -/
def executes (k : Nat) (s : State) (i : Instr) : Prop :=
  ∃ j m, j < k ∧ run j s = .next m ∧ m.action Config.params = .command i

/-! ### Which registers a step may write (R61, the "w" entries of its columns) -/

end Sys2Proof.Machine

namespace Sys2Proof

/-- The registers a command writes. -/
def Instr.writes : Instr → List Machine.Reg
  | .serialInit _ _ _ _ => [.uBaud, .uCtrl, .uFrame, .uStatus]
  | .serialSetEnabled _ _ => [.uCtrl, .uStatus]
  | .serialWriteByte _ => [.uStatus, .uTxdata]
  | .serialReadByte => [.uStatus]
  | .timerInit _ => [.tCfg, .tCtrl, .tIntctrl, .tIntflags]
  | .timerEnable => [.tCtrl, .tIntctrl, .tPer, .tCnt]
  | .timerDisable => [.tCtrl, .tIntctrl, .tIntflags]
  | .irqGlobal _ => [.iCtrl]
  | .cbRet => [.iSvc]

end Sys2Proof

namespace Sys2Proof.Machine

/-- The registers a hardware event writes. -/
def HwEvent.writes : HwEvent → List Reg
  | .rxStart => []
  | .rxComplete _ => [.uStatus, .uRxdata]
  | .txDrain => [.uStatus]
  | .tclk => [.tIntflags, .tCnt]

/-- The registers a step writes. `DISPATCH` of a source other than `TMR` writes `I_SVC` alone (R174). -/
def Action.writes : Action → List Reg
  | .idle => []
  | .reserved => []
  | .command i => i.writes
  | .event e => e.writes
  | .dispatch .txe => [.iSvc]
  | .dispatch .rx => [.iSvc]
  | .dispatch .tmr => [.tIntctrl, .tIntflags, .iSvc]

/-! ### Reserved words (R89), said of the word as a number -/

/-- `OP` is 0 or 10 to 15, or a bit the word's format marks zero is 1: the low 28 bits are too large for the
operand of the format (R83 to R87); format SI has no such bit (R82). -/
def ReservedWord (w : Word) : Prop :=
  let op := w.toNat / 2 ^ 28
  let low := w.toNat % 2 ^ 28
  op = 0 ∨ 10 ≤ op ∨ (op = 2 ∧ 4 ≤ low) ∨ (op = 3 ∧ 256 ≤ low) ∨ (op = 5 ∧ 65536 ≤ low) ∨ (op = 8 ∧ 2 ≤ low) ∨
    ((op = 4 ∨ op = 6 ∨ op = 7 ∨ op = 9) ∧ low ≠ 0)

end Sys2Proof.Machine
end

