-- ==== Sys2Proof/Certificates/Slice0/Obligations.lean ====
section
/-! DEFINITION. The statements for the provers (OBLIGATIONS.json lists them). Rules are those of spec/. Where a
statement rests on a choice of the spec's own ("decision D<n>", "derived") or of the model's (a log entry), its
docstring says so. -/

open Sys2Proof Sys2Proof.Machine

/-! ### Encoding -/

/-- R82 to R88: no bit of an encoding is dropped. Every command that fits a word is what its word decodes to. -/
def Obligations.DecodeOfEncode : Prop :=
  ∀ i : Instr, i.WellFormed → decode (encode i) = .instr i

/-- R81 to R89: each word has one meaning. A word that decodes to a command is that command's word, and the
command's operands fit their fields. -/
def Obligations.EncodeOfDecode : Prop :=
  ∀ (w : Word) (i : Instr), decode w = .instr i → i.WellFormed ∧ encode i = w

/-- R89 (the spec's decision D27): the decoder's verdict is "invalid" exactly on the reserved encodings, said of
the word as a number; the all-zero word and the all-ones word are two of them; an accepted reserved word is
refused. -/
def Obligations.ReservedWordsAreRefused : Prop :=
  ∀ w : Word,
    ((∃ why, decode w = .invalid why) ↔ ReservedWord w) ∧
    (ReservedWord w → ∀ (s : State) (rest : List Turn), s.turns = .engine w :: rest → s.canDispatch = false →
      step s = .refused .reservedEncoding) ∧
    ReservedWord 0 ∧ ReservedWord (BitVec.allOnes 32)

/-- R81, opcode_table.json: the decoder agrees with the table's match and mask columns, row by row. -/
def Obligations.DecoderAgreesWithOpcodeTable : Prop :=
  ∀ (w : Word) (row : OpcodeRow), row ∈ opcodeTable →
    (w &&& row.mask = row.value ↔ ∃ i, decode w = .instr i ∧ i.row = row)

/-- 95_test_vectors.md section 2.1: words written out from the format tables R82 to R87, one of each command. -/
def Obligations.SpecWordsDecode : Prop :=
  decode 0x16002580 = .instr (.serialInit .even 8 0 9600) ∧
  decode 0x19F1C200 = .instr (.serialInit .odd 7 3 115200) ∧
  decode 0x20000001 = .instr (.serialSetEnabled false true) ∧
  decode 0x20000002 = .instr (.serialSetEnabled true false) ∧
  decode 0x30000041 = .instr (.serialWriteByte 0x41) ∧
  decode 0x40000000 = .instr .serialReadByte ∧
  decode 0x50000023 = .instr (.timerInit 35) ∧
  decode 0x60000000 = .instr .timerEnable ∧
  decode 0x70000000 = .instr .timerDisable ∧
  decode 0x80000001 = .instr (.irqGlobal true) ∧
  decode 0x90000000 = .instr .cbRet

/-! ### The step -/

/-- R80, R176: when the engine's turn presents the word of `i` and no dispatch goes first, the step is `exec i` in
the state whose turn is used up, and nothing else changes. -/
def Obligations.StepRunsTheDecodedCommand : Prop :=
  ∀ (s : State) (w : Word) (rest : List Turn) (i : Instr),
    s.turns = .engine w :: rest → decode w = .instr i → s.canDispatch = false →
    step s = exec i { s with turns := rest }

/-- R155, R174, R176 ("Hardware events are never held back"): a hardware event happens in every state; an enabled
`DISPATCH` is the entry of R174. A dispatcher's turn that is not enabled, and the absence of a turn, change
nothing but the turns: the model's choice (log entries 1, 3). -/
def Obligations.StepPerformsEventsAndDispatches : Prop :=
  ∀ (s : State) (rest : List Turn),
    (∀ e, s.turns = .hardware e :: rest → step s = .next (hwEvent e { s with turns := rest })) ∧
    (∀ src, s.turns = .dispatcher src :: rest → s.dispatchable Config.params src = true →
      step s = .next (enterCallback src { s with turns := rest })) ∧
    (∀ src, s.turns = .dispatcher src :: rest → s.dispatchable Config.params src = false →
      step s = .next { s with turns := rest }) ∧
    (s.turns = [] → step s = .next s)

/-- R176: while `can_dispatch` holds a word presented in main context is not executed; a `DISPATCH` that
`IRQ_ORDER` allows goes first and the word is still the next turn. In interrupt context every word is accepted
at once. That the engine's turn then stands for a `DISPATCH` is the model's choice (log entries 2, 4); the drawn
free value is the model's counter. -/
def Obligations.MainCommandWaitsForDispatch : Prop :=
  ∀ (s : State) (w : Word) (rest : List Turn), s.turns = .engine w :: rest →
    (s.canDispatch = true →
      ∃ src, s.dispatchable Config.params src = true ∧
        step s = .next (enterCallback src { s with freeCount := s.freeCount + 1 })) ∧
    (s.irq.src ≠ 0 →
      step s =
        match decode w with
        | .instr i => exec i { s with turns := rest }
        | .invalid _ => .refused .reservedEncoding)

/-! ### Reset -/

/-- R44 (every value is the spec's decision D23): the reset value of every piece of state the table gives one,
main context, interrupts globally disabled, every source masked. `U_TXDATA` and `U_RXDATA` are unspecified, and
nothing is said of them. -/
def Obligations.ResetValues : Prop :=
  let s := State.reset
  s.uart.baud = 0x0000 ∧ s.uart.ctrl = 0x00 ∧ s.uart.frame = 0x00 ∧ s.uart.status = 0x02 ∧
  s.uart.rxBusy = false ∧ s.uart.uInit = false ∧
  s.timer.cfg = 0x0000 ∧ s.timer.ctrl = 0x00 ∧ s.timer.intctrl = 0x00 ∧ s.timer.intflags = 0x00 ∧
  s.timer.per = 0x0000 ∧ s.timer.cnt = 0x0000 ∧ s.timer.tInit = false ∧
  s.irq.ctrl = 0x00 ∧ s.irq.svc = 0x00 ∧ s.cvLog = [] ∧
  s.inMain = true ∧ s.irq.gie = false ∧ ∀ src, s.enabled src = false

/-- R201 (derived there): at reset the only commands not refused are `SERIAL_INIT`, `TIMER_INIT` and `IRQ_GLOBAL`;
the hardware events change nothing; nothing can be dispatched; the timer is {Uninitialized}. -/
def Obligations.OnlyThreeCommandsRunAtReset : Prop :=
  (∀ i : Instr,
    (∃ t, exec i State.reset = .next t) ↔
      ((∃ par dbits port baud, i = .serialInit par dbits port baud) ∨ (∃ ticks, i = .timerInit ticks) ∨
        ∃ en, i = .irqGlobal en)) ∧
  (∀ i : Instr, (∃ t, exec i State.reset = .next t) ∨ ∃ r, exec i State.reset = .refused r) ∧
  (∀ e, hwEvent e State.reset = State.reset) ∧
  State.reset.canDispatch = false ∧ State.reset.timer.uninitialized = true

/-! ### What each command does, that it completes, and its frame -/

/-- R100: `SERIAL_INIT` completes in every state, for every operand; `U_BAUD` is `DivisorLaw`'s. `U_CTRL` becomes
0x02; an unrecognised `DBITS` or `PAR` leaves its one field; `TXE`, the data registers, the timer, the interrupt
controller and `CV_LOG` are unchanged; the port has no effect; the response is 0x01. -/
def Obligations.SerialInitResult : Prop :=
  ∀ (par : Parity) (dbits port baud : Nat) (s : State), ∃ t,
    exec (.serialInit par dbits port baud) s = .next t ∧
    t.uart.ctrl = 0x02 ∧ t.uart.uInit = true ∧ t.uart.rxBusy = false ∧
    t.uart.chsize = (if dbits = 8 then true else if dbits = 7 then false else s.uart.chsize) ∧
    t.uart.pmode = (match par with | .none => 0 | .even => 1 | .odd => 2 | .unmatched => s.uart.pmode) ∧
    t.uart.frame.extractLsb' 3 5 = s.uart.frame.extractLsb' 3 5 ∧
    t.uart.rxc = (s.uart.rxc && !Config.params.rxFlushOnDisable) ∧ t.uart.txe = s.uart.txe ∧
    t.uart.status.extractLsb' 2 6 = s.uart.status.extractLsb' 2 6 ∧
    t.uart.txdata = s.uart.txdata ∧ t.uart.rxdata = s.uart.rxdata ∧
    t.timer = s.timer ∧ t.irq = s.irq ∧ t.cvLog = s.cvLog ∧ t.turns = s.turns ∧
    t.trace = s.trace ++ [.response 0x01] ∧
    ∀ port', exec (.serialInit par dbits port' baud) s = .next t

/-- R101 (rounding and validity are the spec's decision D6): the divisor of a valid pair is the source's formula,
for every clock and rate; a pair that is not valid gives a free value; `SERIAL_INIT` programs it and
answers success for both; the worked examples. -/
def Obligations.DivisorLaw : Prop :=
  (∀ (clock rate : Nat) (free : Half),
    (1 ≤ rate ∧ 1 ≤ clock / (16 * rate) ∧ clock / (16 * rate) ≤ 65536 →
      (divisor clock rate free).toNat = clock / (16 * rate) - 1) ∧
    (¬(1 ≤ rate ∧ 1 ≤ clock / (16 * rate) ∧ clock / (16 * rate) ≤ 65536) → divisor clock rate free = free)) ∧
  (∀ (par : Parity) (dbits port baud : Nat) (s t : State), exec (.serialInit par dbits port baud) s = .next t →
    t.uart.baud = divisor Config.params.fPer baud (Config.freeHalf s.freeCount) ∧
    t.trace = s.trace ++ [.response 0x01]) ∧
  (∀ free : Half,
    divisor 16000000 9600 free = 103 ∧ divisor 16000000 19200 free = 51 ∧ divisor 16000000 38400 free = 25 ∧
    divisor 16000000 115200 free = 7 ∧ divisor 16000000 1000000 free = 0 ∧
    divisor 16000000 1000001 free = free ∧ divisor 16000000 15 free = free ∧ divisor 16000000 16 free = 62499)

/-- R100 (c), R64: whatever the parameters are, a repeated `SERIAL_INIT` with the same operands and a valid pair
leaves the Serial Transport as the first left it, and every `SERIAL_INIT` answers success. (Stated over every
`Params`, since no rate need be valid for the machine's own clock, which is not known.) -/
def Obligations.SerialInitReappliesIdentically : Prop :=
  (∀ (p : Params) (par : Parity) (dbits port baud : Nat) (s : State), validPair p.fPer baud = true →
    (serialInit p par dbits port baud (serialInit p par dbits port baud s)).uart =
      (serialInit p par dbits port baud s).uart) ∧
  ∀ (par : Parity) (dbits port baud : Nat) (s : State), ∃ t u,
    exec (.serialInit par dbits port baud) s = .next t ∧ exec (.serialInit par dbits port baud) t = .next u ∧
    u = serialInit Config.params par dbits port baud (serialInit Config.params par dbits port baud s) ∧
    u.trace = s.trace ++ [.response 0x01, .response 0x01]

/-- R102: after `SERIAL_INIT`, `SERIAL_SET_ENABLED` completes; `U_CTRL` is the value the rule lists, whatever it
held; `rx` = 0 discards a character in reception and, by the parameter, an unread byte (decision D8); everything
else is unchanged. Before `SERIAL_INIT` it is refused. -/
def Obligations.SerialSetEnabledResult : Prop :=
  ∀ (rx tx : Bool) (s : State),
    (s.uart.uInit = true → ∃ t,
      exec (.serialSetEnabled rx tx) s = .next t ∧
      t.uart.ctrl =
        (match rx, tx with
          | false, false => 0x02 | false, true => 0x0A | true, false => 0x07 | true, true => 0x0F) ∧
      t.uart.rxBusy = (s.uart.rxBusy && rx) ∧
      t.uart.rxc = (s.uart.rxc && (rx || !Config.params.rxFlushOnDisable)) ∧
      t.uart.txe = s.uart.txe ∧ t.uart.status.extractLsb' 2 6 = s.uart.status.extractLsb' 2 6 ∧
      t.uart.baud = s.uart.baud ∧ t.uart.frame = s.uart.frame ∧ t.uart.txdata = s.uart.txdata ∧
      t.uart.rxdata = s.uart.rxdata ∧ t.uart.uInit = true ∧
      t.timer = s.timer ∧ t.irq = s.irq ∧ t.cvLog = s.cvLog ∧ t.turns = s.turns ∧ t.trace = s.trace) ∧
    (s.uart.uInit = false → exec (.serialSetEnabled rx tx) s = .refused .useBeforeInit)

/-- R102 (f), R64, the source's property T2: set-enabled is idempotent, and it converges: the result for `U_CTRL`
does not depend on a set-enabled step given before it. -/
def Obligations.SerialSetEnabledConverges : Prop :=
  ∀ (rx tx : Bool) (s t : State), exec (.serialSetEnabled rx tx) s = .next t →
    exec (.serialSetEnabled rx tx) t = .next t ∧
    ∀ (rx' tx' : Bool) (m : State), exec (.serialSetEnabled rx' tx') s = .next m →
      ∃ u, exec (.serialSetEnabled rx tx) m = .next u ∧ u.uart.ctrl = t.uart.ctrl

/-- R103 (the fault is the spec's decision D26): after `SERIAL_INIT` and with the register free,
`SERIAL_WRITE_BYTE` completes and stores all eight bits, whatever the frame, the enables and the context are; `TXE`
becomes 0, which ends `deliverable(TXE)`; nothing is emitted and nothing else changes. A register that is not
free is a fault; before `SERIAL_INIT` it is refused. -/
def Obligations.SerialWriteByteResult : Prop :=
  ∀ (byte : Byte) (s : State),
    (s.uart.uInit = true → s.uart.txe = true → ∃ t,
      exec (.serialWriteByte byte) s = .next t ∧
      t.uart.txdata = byte ∧ t.uart.txe = false ∧ t.deliverable .txe = false ∧
      t.uart.rxc = s.uart.rxc ∧ t.uart.status.extractLsb' 2 6 = s.uart.status.extractLsb' 2 6 ∧
      t.uart.baud = s.uart.baud ∧ t.uart.ctrl = s.uart.ctrl ∧ t.uart.frame = s.uart.frame ∧
      t.uart.rxdata = s.uart.rxdata ∧ t.uart.rxBusy = s.uart.rxBusy ∧ t.uart.uInit = true ∧
      t.timer = s.timer ∧ t.irq = s.irq ∧ t.cvLog = s.cvLog ∧ t.turns = s.turns ∧ t.trace = s.trace) ∧
    (s.uart.uInit = true → s.uart.txe = false → exec (.serialWriteByte byte) s = .fault .writeNotFree) ∧
    (s.uart.uInit = false → exec (.serialWriteByte byte) s = .refused .useBeforeInit)

/-- R104 (decision D25): after `SERIAL_INIT`, `SERIAL_READ_BYTE` completes. With a byte present the response is it,
`RXC` becomes 0, `U_RXDATA` keeps its value. With none, the response is a free value (log entry 7), CV3 is
recorded and `RXC` stays 0. Nothing else changes. Before `SERIAL_INIT` it is refused. -/
def Obligations.SerialReadByteResult : Prop :=
  ∀ s : State,
    (s.uart.uInit = true → ∃ t,
      exec .serialReadByte s = .next t ∧
      (s.uart.rxc = true → t.trace = s.trace ++ [.response s.uart.rxdata] ∧ t.cvLog = s.cvLog) ∧
      (s.uart.rxc = false → t.trace = s.trace ++ [.response (Config.freeByte s.freeCount)] ∧
        ∀ c, c ∈ t.cvLog ↔ c = .cv3 ∨ c ∈ s.cvLog) ∧
      t.uart.rxc = false ∧ t.deliverable .rx = false ∧
      t.uart.txe = s.uart.txe ∧ t.uart.status.extractLsb' 2 6 = s.uart.status.extractLsb' 2 6 ∧
      t.uart.baud = s.uart.baud ∧ t.uart.ctrl = s.uart.ctrl ∧ t.uart.frame = s.uart.frame ∧
      t.uart.txdata = s.uart.txdata ∧ t.uart.rxdata = s.uart.rxdata ∧ t.uart.rxBusy = s.uart.rxBusy ∧
      t.uart.uInit = true ∧ t.timer = s.timer ∧ t.irq = s.irq ∧ t.turns = s.turns) ∧
    (s.uart.uInit = false → exec .serialReadByte s = .refused .useBeforeInit)

/-- R120 (what is zeroed is the spec's decision D19): `TIMER_INIT` completes in every state; `T_CFG` is
`PeriodLaw`'s; the control registers and the flags are 0; `T_PER`, `T_CNT`, the Serial Transport and the interrupt
controller are unchanged; the timer is {Disabled}; the response is 0x01. -/
def Obligations.TimerInitResult : Prop :=
  ∀ (ticks : Nat) (s : State), ∃ t,
    exec (.timerInit ticks) s = .next t ∧
    t.timer.cfg = period Config.params.tickCounts ticks (Config.freeHalf s.freeCount) ∧
    t.timer.ctrl = 0x00 ∧ t.timer.intctrl = 0x00 ∧ t.timer.intflags = 0x00 ∧ t.timer.tInit = true ∧
    t.timer.per = s.timer.per ∧ t.timer.cnt = s.timer.cnt ∧ t.timer.disabled = true ∧
    t.uart = s.uart ∧ t.irq = s.irq ∧ t.cvLog = s.cvLog ∧ t.turns = s.turns ∧
    t.trace = s.trace ++ [.response 0x01]

/-- R121 (the spec's decision D16): the period is the product of the ticks and `TICK_COUNTS` when that fits
16 bits, else a free value; 0 ticks give 0 for every constant; 1 tick gives the constant; the worked examples. -/
def Obligations.PeriodLaw : Prop :=
  (∀ (tickCounts ticks : Nat) (free : Half),
    (ticks * tickCounts ≤ 65535 → (period tickCounts ticks free).toNat = ticks * tickCounts) ∧
    (65535 < ticks * tickCounts → period tickCounts ticks free = free) ∧
    period tickCounts 0 free = 0 ∧
    (tickCounts ≤ 65535 → (period tickCounts 1 free).toNat = tickCounts)) ∧
  (∀ (ticks : Nat) (s t : State), exec (.timerInit ticks) s = .next t →
    t.timer.cfg = period Config.params.tickCounts ticks (Config.freeHalf s.freeCount)) ∧
  (∀ free : Half,
    period 50 35 free = 1750 ∧ period 50 1310 free = 65500 ∧ period 50 1311 free = free ∧
    period 1 65535 free = 65535)

/-- R122: after `TIMER_INIT`, `TIMER_ENABLE` completes. With a nonzero period `T_PER` is `T_CFG`, `T_CNT` is 0 and
the interrupt is unmasked; with a zero period they are left. In both cases `T_CTRL` = `PRESC_SEL` * 2 + 1. `OVF` is
not touched (decision D21), so an overflow still pending is deliverable at once (R204). Everything else is
unchanged. Before `TIMER_INIT` it is refused. -/
def Obligations.TimerEnableResult : Prop :=
  ∀ s : State,
    (s.timer.tInit = true → ∃ t,
      exec .timerEnable s = .next t ∧
      (s.timer.cfg ≠ 0 → t.timer.per = s.timer.cfg ∧ t.timer.cnt = 0 ∧ t.timer.ovie = true ∧
        t.timer.armed = true ∧ t.deliverable .tmr = s.timer.ovf) ∧
      (s.timer.cfg = 0 → t.timer.per = s.timer.per ∧ t.timer.cnt = s.timer.cnt ∧
        t.timer.intctrl = s.timer.intctrl) ∧
      t.timer.ctrl.toNat = Config.params.prescSel.toNat * 2 + 1 ∧
      t.timer.intctrl.extractLsb' 1 7 = s.timer.intctrl.extractLsb' 1 7 ∧
      t.timer.intflags = s.timer.intflags ∧ t.timer.cfg = s.timer.cfg ∧ t.timer.tInit = true ∧
      t.uart = s.uart ∧ t.irq = s.irq ∧ t.cvLog = s.cvLog ∧ t.turns = s.turns ∧ t.trace = s.trace) ∧
    (s.timer.tInit = false → exec .timerEnable s = .refused .useBeforeInit)

/-- R123: after `TIMER_INIT`, `TIMER_DISABLE` completes: `RUN`, `OVIE` and `OVF` are 0, the timer is {Disabled},
nothing is deliverable from it, and everything else is unchanged (what is left is the spec's decision D20).
Before `TIMER_INIT` it is refused. -/
def Obligations.TimerDisableResult : Prop :=
  ∀ s : State,
    (s.timer.tInit = true → ∃ t,
      exec .timerDisable s = .next t ∧
      t.timer.run = false ∧ t.timer.ovie = false ∧ t.timer.ovf = false ∧ t.timer.disabled = true ∧
      t.deliverable .tmr = false ∧
      t.timer.clksel = s.timer.clksel ∧ t.timer.ctrl.extractLsb' 4 4 = s.timer.ctrl.extractLsb' 4 4 ∧
      t.timer.intctrl.extractLsb' 1 7 = s.timer.intctrl.extractLsb' 1 7 ∧
      t.timer.intflags.extractLsb' 1 7 = s.timer.intflags.extractLsb' 1 7 ∧
      t.timer.cfg = s.timer.cfg ∧ t.timer.per = s.timer.per ∧ t.timer.cnt = s.timer.cnt ∧ t.timer.tInit = true ∧
      t.uart = s.uart ∧ t.irq = s.irq ∧ t.cvLog = s.cvLog ∧ t.turns = s.turns ∧ t.trace = s.trace) ∧
    (s.timer.tInit = false → exec .timerDisable s = .refused .useBeforeInit)

/-- R140 (decision D15): `IRQ_GLOBAL` completes in every state: `GIE` is the operand; no flag and no enable bit
changes, and nothing else; inside a callback it lets nothing be dispatched. -/
def Obligations.IrqGlobalResult : Prop :=
  ∀ (en : Bool) (s : State), ∃ t,
    exec (.irqGlobal en) s = .next t ∧
    t.irq.gie = en ∧ t.irq.ctrl.extractLsb' 1 7 = s.irq.ctrl.extractLsb' 1 7 ∧ t.irq.svc = s.irq.svc ∧
    t.canDispatch = (en && s.inMain && s.anyDeliverable) ∧
    t.uart = s.uart ∧ t.timer = s.timer ∧ t.cvLog = s.cvLog ∧ t.turns = s.turns ∧ t.trace = s.trace

/-- R141 (decision D15): in interrupt context `CB_RET` completes, whichever callback runs: `SRC` becomes 0 and
nothing else changes, so what is dispatched next depends on `GIE` and the flags alone. In main context it is
refused. -/
def Obligations.CbRetResult : Prop :=
  ∀ s : State,
    (s.irq.src ≠ 0 → ∃ t,
      exec .cbRet s = .next t ∧
      t.irq.src = 0 ∧ t.inMain = true ∧ t.irq.svc.extractLsb' 2 6 = s.irq.svc.extractLsb' 2 6 ∧
      t.irq.ctrl = s.irq.ctrl ∧ t.canDispatch = (s.irq.gie && s.anyDeliverable) ∧
      t.uart = s.uart ∧ t.timer = s.timer ∧ t.cvLog = s.cvLog ∧ t.turns = s.turns ∧ t.trace = s.trace) ∧
    (s.irq.src = 0 → exec .cbRet s = .refused .returnInMain)

/-! ### Hardware events -/

/-- R150 (decision D9): a start is accepted when the receiver is enabled and not inside a character; otherwise, and
otherwise than in `RX_BUSY`, nothing changes. -/
def Obligations.RxStartResult : Prop :=
  ∀ s : State,
    (s.uart.rxen = true → s.uart.rxBusy = false →
      hwEvent .rxStart s = { s with uart := { s.uart with rxBusy := true } }) ∧
    (s.uart.rxen = false ∨ s.uart.rxBusy = true → hwEvent .rxStart s = s)

/-- R151 (bit 7 in 7-bit mode is the spec's decision D10): an accepted character is stored, over an unread one too,
`RXC` is 1 and the receiver is free; a character not accepted changes nothing. -/
def Obligations.RxCompleteResult : Prop :=
  ∀ (b : Byte) (s : State),
    let t := hwEvent (.rxComplete b) s
    (s.uart.rxBusy = true →
      t.uart.rxdata.toNat = (if s.uart.chsize then b.toNat else b.toNat % 128) ∧
      t.uart.rxc = true ∧ t.uart.rxBusy = false ∧ t.uart.txe = s.uart.txe ∧
      t.uart.status.extractLsb' 2 6 = s.uart.status.extractLsb' 2 6 ∧
      t.uart.baud = s.uart.baud ∧ t.uart.ctrl = s.uart.ctrl ∧ t.uart.frame = s.uart.frame ∧
      t.uart.txdata = s.uart.txdata ∧ t.uart.uInit = s.uart.uInit ∧
      t.timer = s.timer ∧ t.irq = s.irq ∧ t.cvLog = s.cvLog ∧ t.turns = s.turns ∧ t.trace = s.trace) ∧
    (s.uart.rxBusy = false → t = s)

/-- R152 (decision D11): with a byte waiting and the transmitter enabled, the character's data bits (seven or eight
of the byte's) and its parity bit are emitted and the register becomes free; `U_TXDATA` keeps its value, and the
interrupt's enable bit plays no part. Otherwise nothing changes. -/
def Obligations.TxDrainResult : Prop :=
  ∀ s : State,
    let t := hwEvent .txDrain s
    (s.uart.txe = false → s.uart.txen = true →
      (∃ d : Byte, d.toNat = (if s.uart.chsize then s.uart.txdata.toNat else s.uart.txdata.toNat % 128) ∧
        t.trace = s.trace ++ [.line d (parityBit s.uart.pmode d (Config.freeParity s.freeCount))]) ∧
      t.uart.txe = true ∧ t.uart.rxc = s.uart.rxc ∧
      t.uart.status.extractLsb' 2 6 = s.uart.status.extractLsb' 2 6 ∧
      t.uart.baud = s.uart.baud ∧ t.uart.ctrl = s.uart.ctrl ∧ t.uart.frame = s.uart.frame ∧
      t.uart.txdata = s.uart.txdata ∧ t.uart.rxdata = s.uart.rxdata ∧ t.uart.rxBusy = s.uart.rxBusy ∧
      t.uart.uInit = s.uart.uInit ∧
      t.timer = s.timer ∧ t.irq = s.irq ∧ t.cvLog = s.cvLog ∧ t.turns = s.turns) ∧
    (s.uart.txe = true ∨ s.uart.txen = false → t = s)

/-- R153 (the spec's general knowledge G1, log entry 12): no parity sends no bit; even and odd parity send one bit
that makes the number of 1s, counted over the eight data bits and the parity bit, even or odd. -/
def Obligations.ParityBitMakesParity : Prop :=
  ∀ (d : Byte) (free : Option (BitVec 1)),
    let ones := (d.getLsbD 0).toNat + (d.getLsbD 1).toNat + (d.getLsbD 2).toNat + (d.getLsbD 3).toNat +
      (d.getLsbD 4).toNat + (d.getLsbD 5).toNat + (d.getLsbD 6).toNat + (d.getLsbD 7).toNat
    parityBit 0 d free = none ∧
    (∃ p : BitVec 1, parityBit 1 d free = some p ∧ (ones + p.toNat) % 2 = 0) ∧
    (∃ p : BitVec 1, parityBit 2 d free = some p ∧ (ones + p.toNat) % 2 = 1)

/-- R154 (decision D17): one count of a running timer, the increment taken modulo 65536 and compared after it;
everything outside the counter and the flag is unchanged; a stopped timer does not change. -/
def Obligations.TclkResult : Prop :=
  ∀ s : State,
    let t := hwEvent .tclk s
    let n := (s.timer.cnt.toNat + 1) % 65536
    (s.timer.run = true → n = s.timer.per.toNat → t.timer.cnt = 0 ∧ t.timer.ovf = true) ∧
    (s.timer.run = true → n ≠ s.timer.per.toNat →
      t.timer.cnt.toNat = n ∧ t.timer.intflags = s.timer.intflags) ∧
    (s.timer.run = false → t = s) ∧
    t.timer.intflags.extractLsb' 1 7 = s.timer.intflags.extractLsb' 1 7 ∧
    t.timer.cfg = s.timer.cfg ∧ t.timer.ctrl = s.timer.ctrl ∧ t.timer.intctrl = s.timer.intctrl ∧
    t.timer.per = s.timer.per ∧ t.timer.tInit = s.timer.tInit ∧
    t.uart = s.uart ∧ t.irq = s.irq ∧ t.cvLog = s.cvLog ∧ t.turns = s.turns ∧ t.trace = s.trace

/-- R154 (a): from `T_CNT` = 0 with `T_PER` = P ≥ 1 and no overflow pending, the flag is set by the P-th count and
by none before it, and the counter is then at 0 again. -/
def Obligations.CounterReachesPeriodExactly : Prop :=
  ∀ t : Timer, t.run = true → t.cnt = 0 → t.per ≠ 0 → t.ovf = false →
    (∀ n, n < t.per.toNat → (countTimer^[n] t).cnt.toNat = n ∧ (countTimer^[n] t).ovf = false) ∧
    (countTimer^[t.per.toNat] t).cnt = 0 ∧ (countTimer^[t.per.toNat] t).ovf = true ∧
    (countTimer^[t.per.toNat] t).run = true

/-! ### Dispatch -/

/-- R174, R177 (decisions D18, D40): taking an interrupt. `SRC` names the source and its callback is emitted; for
`TMR` the flag and the enable bit are cleared, for the others the timer is unchanged; the counter, `GIE`, the
Serial Transport and everything else are unchanged: nothing is saved. -/
def Obligations.DispatchEntersTheCallback : Prop :=
  ∀ (src : Source) (s : State),
    let t := enterCallback src s
    t.irq.src = (match src with | .txe => 1 | .rx => 2 | .tmr => 3) ∧
    t.irq.svc.extractLsb' 2 6 = s.irq.svc.extractLsb' 2 6 ∧ t.irq.ctrl = s.irq.ctrl ∧
    t.trace = s.trace ++ [.callback src] ∧
    (src = .tmr → t.timer.ovf = false ∧ t.timer.ovie = false) ∧ (src ≠ .tmr → t.timer = s.timer) ∧
    t.timer.intflags.extractLsb' 1 7 = s.timer.intflags.extractLsb' 1 7 ∧
    t.timer.intctrl.extractLsb' 1 7 = s.timer.intctrl.extractLsb' 1 7 ∧
    t.timer.cfg = s.timer.cfg ∧ t.timer.ctrl = s.timer.ctrl ∧ t.timer.per = s.timer.per ∧
    t.timer.cnt = s.timer.cnt ∧ t.timer.tInit = s.timer.tInit ∧
    t.uart = s.uart ∧ t.cvLog = s.cvLog ∧ t.turns = s.turns

/-- R175 (decision D14): with a total order exactly one source can be dispatched while `can_dispatch` holds, the
deliverable one that comes first in it; with `any`, each deliverable source can; the sources not taken stay
deliverable. -/
def Obligations.DispatchFollowsIrqOrder : Prop :=
  ∀ (p : Params) (s : State), s.canDispatch = true →
    (p.irqOrder = .any → ∀ src, s.dispatchable p src = s.deliverable src) ∧
    (∀ o, p.irqOrder = .total o → ∃ src, s.dispatchable p src = true ∧
      ∀ other, other ≠ src → s.dispatchable p other = false ∧
        (s.deliverable other = true → o.toList.idxOf src < o.toList.idxOf other)) ∧
    (∀ src other, other ≠ src → (enterCallback src s).deliverable other = s.deliverable other)

/-- R178, R174, R91: no step emits a callback but a `DISPATCH` that is enabled (by `IRQ_ORDER` too), which needs
`GIE` = 1, main context and a deliverable source, and emits one, its own; while a callback runs, the context changes
only by `CB_RET`. -/
def Obligations.CallbacksNeverNest : Prop :=
  ∀ s t : State, step s = .next t →
    (((∀ src, s.action Config.params ≠ .dispatch src) ∧ callbacks t.trace = callbacks s.trace) ∨
      ∃ src, s.action Config.params = .dispatch src ∧ s.dispatchable Config.params src = true ∧
        s.irq.gie = true ∧ s.irq.src = 0 ∧ s.deliverable src = true ∧ t.irq.src = src.number ∧
        t.trace = s.trace ++ [.callback src]) ∧
    (s.irq.src ≠ 0 → t.irq.src = s.irq.src ∨ (s.action Config.params = .command .cbRet ∧ t.irq.src = 0))

/-- R90 (the value 0x01 is the spec's decision D37): a command with a result emits exactly one response in its step,
success for the two initialisations and the byte read for `SERIAL_READ_BYTE`; the other six emit nothing. When no
byte is present the response is a free byte: that clause is R104's and R171's (decision D25), and that the value is
free is the model's log entry 7. -/
def Obligations.ResponsesOfCommands : Prop :=
  ∀ (i : Instr) (s t : State), exec i s = .next t →
    t.trace = s.trace ++
      (match i with
        | .serialInit _ _ _ _ => [.response 0x01]
        | .timerInit _ => [.response 0x01]
        | .serialReadByte => [.response (if s.uart.rxc then s.uart.rxdata else Config.freeByte s.freeCount)]
        | _ => [])

/-- R41, R92: the output trace is a record. A step appends to it and never reads it: from the same state with another
trace the same step is taken and the same outputs are appended. -/
def Obligations.TraceIsNeverRead : Prop :=
  ∀ s : State,
    match step s with
    | .next t => ∃ outs, t.trace = s.trace ++ outs ∧
        ∀ tr, step { s with trace := tr } = .next { t with trace := tr ++ outs }
    | .fault f => ∀ tr, step { s with trace := tr } = .fault f
    | .refused r => ∀ tr, step { s with trace := tr } = .refused r

/-! ### Rules about the whole machine -/

/-- R171 (decisions D24 to D27): when a command faults or is refused, with which code, and that nothing else can:
no other command, no hardware event and no dispatch. With no byte present a read continues and records CV3, its
response a free byte (log entry 7). That a dispatcher's turn whose `DISPATCH` is not enabled answers a next state
too is the model's choice (log entry 3). -/
def Obligations.StopsAreTheContractViolations : Prop :=
  (∀ (i : Instr) (s : State) (f : Fault), exec i s = .fault f ↔
    f = .writeNotFree ∧ (∃ b, i = .serialWriteByte b) ∧ s.uart.uInit = true ∧ s.uart.txe = false) ∧
  (∀ (i : Instr) (s : State) (r : Refusal), exec i s = .refused r ↔
    (r = .useBeforeInit ∧ s.uart.uInit = false ∧
      ((∃ rx tx, i = .serialSetEnabled rx tx) ∨ (∃ b, i = .serialWriteByte b) ∨ i = .serialReadByte)) ∨
    (r = .useBeforeInit ∧ s.timer.tInit = false ∧ (i = .timerEnable ∨ i = .timerDisable)) ∨
    (r = .returnInMain ∧ i = .cbRet ∧ s.irq.src = 0)) ∧
  (∀ s : State, s.uart.uInit = true → s.uart.rxc = false → ∃ t, exec .serialReadByte s = .next t ∧
    (∀ c, c ∈ t.cvLog ↔ c = .cv3 ∨ c ∈ s.cvLog) ∧
    t.trace = s.trace ++ [.response (Config.freeByte s.freeCount)]) ∧
  (∀ (s : State) (w : Word) (rest : List Turn), s.turns = .engine w :: rest → s.canDispatch = false →
    (step s = .refused .reservedEncoding ↔ ReservedWord w)) ∧
  (∀ (s : State) (rest : List Turn),
    (∀ e, s.turns = .hardware e :: rest → ∃ t, step s = .next t) ∧
    (∀ src, s.turns = .dispatcher src :: rest → ∃ t, step s = .next t))

/-- R28, R36 (decision D24): over every step, `U_INIT` is set by `SERIAL_INIT` and `T_INIT` by `TIMER_INIT`, and
neither is ever cleared; both are 0 at reset; while they are 0 the commands of their component are refused;
{Uninitialized} is `T_INIT` = 0. -/
def Obligations.InitBitsAreSetOnceAndKept : Prop :=
  (∀ s t : State, step s = .next t →
    (t.uart.uInit = true ↔ s.uart.uInit = true ∨
      ∃ par dbits port baud, s.action Config.params = .command (.serialInit par dbits port baud)) ∧
    (t.timer.tInit = true ↔ s.timer.tInit = true ∨
      ∃ ticks, s.action Config.params = .command (.timerInit ticks))) ∧
  (∀ s : State, s.uart.uInit = false →
    (∀ rx tx, exec (.serialSetEnabled rx tx) s = .refused .useBeforeInit) ∧
    (∀ b, exec (.serialWriteByte b) s = .refused .useBeforeInit) ∧
    exec .serialReadByte s = .refused .useBeforeInit) ∧
  (∀ s : State, s.timer.tInit = false →
    exec .timerEnable s = .refused .useBeforeInit ∧ exec .timerDisable s = .refused .useBeforeInit) ∧
  (∀ t : Timer, t.uninitialized = !t.tInit) ∧
  State.reset.uart.uInit = false ∧ State.reset.timer.tInit = false

/-- R32: over every step, `OVIE` is set by `TIMER_ENABLE` when `T_CFG` is nonzero, cleared by `TIMER_DISABLE`, by
`TIMER_INIT` and by `DISPATCH(TMR)`, and otherwise kept; it is read by `deliverable`; it is 0 at reset. -/
def Obligations.OverflowEnableBitRule : Prop :=
  (∀ s t : State, step s = .next t →
    t.timer.ovie =
      match s.action Config.params with
      | .command .timerEnable => s.timer.ovie || s.timer.cfg != 0
      | .command .timerDisable => false
      | .command (.timerInit _) => false
      | .dispatch .tmr => false
      | _ => s.timer.ovie) ∧
  (∀ s : State, s.deliverable .tmr = (s.timer.ovf && s.timer.ovie)) ∧
  State.reset.timer.intctrl = 0x00

/-- R33: over every step, `OVF` is set by `TCLK` when the counter of a running timer reaches the period, cleared by
`DISPATCH(TMR)`, `TIMER_DISABLE` and `TIMER_INIT`, and otherwise kept, by `TIMER_ENABLE` too; it is read by
`deliverable`; no command's outputs depend on it; it is 0 at reset. -/
def Obligations.OverflowFlagRule : Prop :=
  (∀ s t : State, step s = .next t →
    t.timer.ovf =
      match s.action Config.params with
      | .event .tclk => s.timer.ovf || (s.timer.run && (s.timer.cnt.toNat + 1) % 65536 == s.timer.per.toNat)
      | .command .timerDisable => false
      | .command (.timerInit _) => false
      | .dispatch .tmr => false
      | _ => s.timer.ovf) ∧
  (∀ s : State, s.deliverable .tmr = (s.timer.ovf && s.timer.ovie)) ∧
  (∀ (i : Instr) (s t : State), exec i s = .next t →
    ∃ u, exec i { s with timer := s.timer.setOvf (!s.timer.ovf) } = .next u ∧ u.trace = t.trace) ∧
  State.reset.timer.intflags = 0x00

/-- R34, R35: over every step, `T_PER` and `T_CNT` are written by `TIMER_ENABLE`, and only when `T_CFG` is nonzero;
`T_CNT` is advanced by `TCLK`, which compares it with `T_PER`; nothing else changes them; both are 0 at reset; no
command's outputs depend on them. -/
def Obligations.PeriodAndCounterRule : Prop :=
  (∀ s t : State, step s = .next t →
    (t.timer.per =
      match s.action Config.params with
      | .command .timerEnable => if s.timer.cfg ≠ 0 then s.timer.cfg else s.timer.per
      | _ => s.timer.per) ∧
    (t.timer.cnt =
      match s.action Config.params with
      | .command .timerEnable => if s.timer.cfg ≠ 0 then 0 else s.timer.cnt
      | .event .tclk =>
          if s.timer.run then (if s.timer.cnt + 1 = s.timer.per then 0 else s.timer.cnt + 1) else s.timer.cnt
      | _ => s.timer.cnt)) ∧
  (∀ (i : Instr) (s t : State) (per cnt : Half), exec i s = .next t →
    ∃ u, exec i { s with timer := { s.timer with per := per, cnt := cnt } } = .next u ∧ u.trace = t.trace) ∧
  State.reset.timer.per = 0 ∧ State.reset.timer.cnt = 0

/-- R38: along every run, of any length, from any state, whose steps execute no `TIMER_INIT`, whatever the turns
after them are, `T_CFG` does not change. -/
def Obligations.ConfiguredPeriodIsImmutable : Prop :=
  ∀ (k : Nat) (s t : State), run k s = .next t → (∀ ticks, ¬executes k s (.timerInit ticks)) →
    t.timer.cfg = s.timer.cfg

/-- R24, R47: over every step, `RXC` is set by a completed character, cleared by `SERIAL_READ_BYTE` and, by the
parameter, by a set-enabled step with `rx` = 0; `TXE` is cleared by `SERIAL_WRITE_BYTE` and set by `TX_DRAIN`;
nothing else changes either; the other bits of `U_STATUS` never change. -/
def Obligations.UartFlagRule : Prop :=
  ∀ s t : State, step s = .next t →
    (t.uart.rxc =
      match s.action Config.params with
      | .event (.rxComplete _) => s.uart.rxc || s.uart.rxBusy
      | .command .serialReadByte => false
      | .command (.serialSetEnabled false _) => s.uart.rxc && !Config.params.rxFlushOnDisable
      | .command (.serialInit _ _ _ _) => s.uart.rxc && !Config.params.rxFlushOnDisable
      | _ => s.uart.rxc) ∧
    (t.uart.txe =
      match s.action Config.params with
      | .command (.serialWriteByte _) => false
      | .event .txDrain => s.uart.txe || s.uart.txen
      | _ => s.uart.txe) ∧
    t.uart.status.extractLsb' 2 6 = s.uart.status.extractLsb' 2 6

/-- R22, R25, R26, R27 (R25's "by nothing else" is R45): over every step, which steps write `U_CTRL`, `U_TXDATA`,
`U_RXDATA` and `RX_BUSY`, and with what. -/
def Obligations.UartRegisterRule : Prop :=
  ∀ s t : State, step s = .next t →
    (t.uart.ctrl =
      match s.action Config.params with
      | .command (.serialInit _ _ _ _) => 0x02
      | .command (.serialSetEnabled rx tx) =>
          BitVec.ofNat 8 (2 + (if rx then 5 else 0) + (if tx then 8 else 0))
      | _ => s.uart.ctrl) ∧
    (t.uart.txdata =
      match s.action Config.params with
      | .command (.serialWriteByte b) => b
      | _ => s.uart.txdata) ∧
    (t.uart.rxdata.toNat =
      match s.action Config.params with
      | .event (.rxComplete b) =>
          if s.uart.rxBusy then (if s.uart.chsize then b.toNat else b.toNat % 128) else s.uart.rxdata.toNat
      | _ => s.uart.rxdata.toNat) ∧
    (t.uart.rxBusy =
      match s.action Config.params with
      | .event .rxStart => s.uart.rxBusy || s.uart.rxen
      | .event (.rxComplete _) => false
      | .command (.serialInit _ _ _ _) => false
      | .command (.serialSetEnabled rx _) => s.uart.rxBusy && rx
      | _ => s.uart.rxBusy)

/-- R39, R40 (decision D15): over every step, `GIE` is written by `IRQ_GLOBAL` alone, and `SRC` by `DISPATCH`, to the
source's number, and by `CB_RET`, to 0; nothing is dispatched while `GIE` is 0 or a callback runs; `CB_RET` and the
acceptance of commands read `SRC`; both registers are 0 at reset. -/
def Obligations.InterruptControlRule : Prop :=
  (∀ s t : State, step s = .next t →
    (t.irq.gie =
      match s.action Config.params with
      | .command (.irqGlobal en) => en
      | _ => s.irq.gie) ∧
    (t.irq.src =
      match s.action Config.params with
      | .dispatch .txe => 1
      | .dispatch .rx => 2
      | .dispatch .tmr => 3
      | .command .cbRet => 0
      | _ => s.irq.src)) ∧
  (∀ (s : State) (src : Source), s.irq.gie = false ∨ s.irq.src ≠ 0 → s.action Config.params ≠ .dispatch src) ∧
  (∀ s : State, exec .cbRet s = .refused .returnInMain ↔ s.irq.src = 0) ∧
  (∀ (s : State) (w : Word) (rest : List Turn) (i : Instr), s.turns = .engine w :: rest → decode w = .instr i →
    s.irq.src ≠ 0 → s.action Config.params = .command i) ∧
  State.reset.irq.ctrl = 0x00 ∧ State.reset.irq.svc = 0x00

/-- R43 (decision D25; its canonical form is the model's, log entry 19): over every step, `CV_LOG` gains CV3 when a
read finds no byte, gains nothing else and never loses a code; it is empty at reset. -/
def Obligations.ViolationLogRule : Prop :=
  (∀ s t : State, step s = .next t → ∀ c : CvCode,
    (c ∈ t.cvLog ↔ c ∈ s.cvLog ∨
      (c = .cv3 ∧ s.action Config.params = .command .serialReadByte ∧ s.uart.rxc = false))) ∧
  State.reset.cvLog = []

/-- R61 ("w" in its columns): a step changes no register but those the map lists for it. -/
def Obligations.StepsWriteOnlyTheirRegisters : Prop :=
  ∀ s t : State, step s = .next t →
    ∀ r : Reg, r ∉ (s.action Config.params).writes → t.read r = s.read r

/-- R60, R61, R63 (decisions D4, D31; log entry 16): the register-number space. An access exists exactly for a number
0 to 13 with that register's width; what is written is read back; every other register, `RX_BUSY`, the ghost items
and the outputs are unchanged; a register can be neither read nor written in part. -/
def Obligations.RegisterSpaceAccess : Prop :=
  (∀ (s : State) (i n : Nat) (v : BitVec n),
    ((∃ u, s.memRead i n = some u) ↔
      (n = 16 ∧ (i = 0 ∨ i = 6 ∨ i = 10 ∨ i = 11)) ∨ (n = 8 ∧ i ≤ 13 ∧ ¬(i = 0 ∨ i = 6 ∨ i = 10 ∨ i = 11))) ∧
    ((∃ t, s.memWrite i n v = some t) ↔ ∃ u, s.memRead i n = some u)) ∧
  (∀ (s t : State) (i n : Nat) (v : BitVec n), s.memWrite i n v = some t →
    t.memRead i n = some v ∧ (∀ j m, j ≠ i → t.memRead j m = s.memRead j m) ∧
    t.uart.rxBusy = s.uart.rxBusy ∧ t.uart.uInit = s.uart.uInit ∧ t.timer.tInit = s.timer.tInit ∧
    t.cvLog = s.cvLog ∧ t.trace = s.trace ∧ t.turns = s.turns)

/-! ### Invariants -/

/-- R20, R29, R37, R122 (c), R154 (e): from every state that meets it, a step gives a state that meets the
invariant (reserved fields read zero, R29 (a) to (d), no unmasked stopped timer, a zero period is masked, the
counter is below the period). The invariant's last clause, that `CV_LOG` is a rising list, is the form the model
gives the set of R43 (log entry 19). -/
def Obligations.StepKeepsInvariant : Prop :=
  ∀ s t : State, s.Inv → step s = .next t → t.Inv

/-- The reset state meets the invariant (R44; the log's form is the model's, log entry 19). -/
def Obligations.ResetMeetsInvariant : Prop := State.reset.Inv

/-- R29: its four invariants hold in every state reached from reset, whatever the agents do. -/
def Obligations.ReachableUartInvariants : Prop :=
  ∀ (turns : List Turn) (k : Nat) (t : State), run k { State.reset with turns := turns } = .next t →
    (t.uart.uInit = true → t.uart.txen = true) ∧ t.uart.rxen = t.uart.rxie ∧
    (t.uart.rxBusy = true → t.uart.rxen = true) ∧ t.uart.pmode ≠ 3

/-! ### The timer -/

/-- R37 (derived there): the timer's state machine. It leaves {Uninitialized} only by `TIMER_INIT`, and then it is
{Disabled}; it becomes {Armed} only by `TIMER_ENABLE` with a nonzero period; it leaves {Armed} only by its expiry,
which leaves it {Disabled-equivalent}, by `TIMER_DISABLE` or by `TIMER_INIT`. -/
def Obligations.TimerStateMachine : Prop :=
  ∀ s t : State, s.Inv → step s = .next t →
    (s.timer.uninitialized = true → t.timer.uninitialized = true ∨
      ((∃ ticks, s.action Config.params = .command (.timerInit ticks)) ∧ t.timer.disabled = true)) ∧
    (s.timer.armed = false → t.timer.armed = true →
      s.action Config.params = .command .timerEnable ∧ s.timer.cfg ≠ 0) ∧
    (s.timer.armed = true → t.timer.armed = false →
      (s.action Config.params = .dispatch .tmr ∧ t.timer.disabledEquivalent = true) ∨
      (s.action Config.params = .command .timerDisable ∧ t.timer.disabled = true) ∨
      ((∃ ticks, s.action Config.params = .command (.timerInit ticks)) ∧ t.timer.disabled = true))

/-- R123 (a), the source's cancellation guarantee: after a `TIMER_DISABLE`, along every run that executes no
`TIMER_ENABLE`, however far the counter is clocked, no `onTimerExpired` is emitted. -/
def Obligations.NoExpiryAfterDisable : Prop :=
  ∀ (s₀ s t : State) (k : Nat), exec .timerDisable s₀ = .next s → run k s = .next t →
    ¬executes k s .timerEnable → expiries t.trace = expiries s₀.trace

/-- R211, R180, the source's zero-timeout guarantee: after `TIMER_INIT 0`, along every run that executes no further
`TIMER_INIT`, with any number of `TIMER_ENABLE`, no `onTimerExpired` is emitted. -/
def Obligations.ZeroTimeoutNeverExpires : Prop :=
  ∀ (s₀ s t : State) (k : Nat), exec (.timerInit 0) s₀ = .next s → run k s = .next t →
    (∀ ticks, ¬executes k s (.timerInit ticks)) → expiries t.trace = expiries s₀.trace

/-- R180 (derived there): at most one `onTimerExpired` is emitted between two `TIMER_ENABLE` commands, and none if
the interrupt is masked to begin with, along every run from every state. -/
def Obligations.AtMostOneExpiryPerArming : Prop :=
  ∀ (k : Nat) (s t : State), run k s = .next t → ¬executes k s .timerEnable →
    expiries t.trace ≤ expiries s.trace + 1 ∧ (s.timer.ovie = false → expiries t.trace = expiries s.trace)

/-- R180 (derived there): after a `TIMER_ENABLE` with `T_CFG` = P ≠ 0 and no overflow pending, along every run that
executes no other `TIMER_ENABLE`, no `onTimerExpired` is emitted before the P-th `TCLK`. -/
def Obligations.NoExpiryBeforeThePeriod : Prop :=
  ∀ (s₀ s t : State) (k : Nat), exec .timerEnable s₀ = .next s → s₀.timer.cfg ≠ 0 → s₀.timer.ovf = false →
    run k s = .next t → ¬executes k s .timerEnable →
    tclks s.turns < s₀.timer.cfg.toNat + tclks t.turns →
    expiries t.trace = expiries s₀.trace

/-- R180, R174: the expiry does come. An armed timer at count 0, with interrupts enabled, in main context and nothing
else deliverable, clocked P times and then given its dispatch, has emitted exactly one `onTimerExpired`, and is
then running with the interrupt masked. -/
def Obligations.ExpiryIsDeliveredAtThePeriod : Prop :=
  ∀ (s : State) (rest : List Turn), s.timer.armed = true → s.timer.ovf = false → s.timer.cnt = 0 →
    s.timer.per ≠ 0 → s.irq.gie = true → s.irq.src = 0 → s.deliverable .txe = false → s.deliverable .rx = false →
    s.turns = List.replicate s.timer.per.toNat (.hardware .tclk) ++ .dispatcher .tmr :: rest →
    ∃ t, run (s.timer.per.toNat + 1) s = .next t ∧ t.trace = s.trace ++ [.callback .tmr] ∧
      t.timer.disabledEquivalent = true ∧ t.timer.ovf = false ∧ t.timer.cnt = 0 ∧ t.irq.src = 3 ∧
      t.uart = s.uart ∧ t.turns = rest

/-! ### Hazards -/

/-- R176, R208, the source's auto-fire property: enabling transmit from main context on an empty register, with
interrupts enabled and nothing else deliverable, emits exactly one `onTransmitterEmpty` before the engine's next
word is accepted. That the turn of that word stands for the `DISPATCH`, and that the word is still the next turn
after it, is the model's choice (log entry 2). -/
def Obligations.TransmitEnableFiresAtOnce : Prop :=
  ∀ (s : State) (w next : Word) (rest : List Turn) (rx : Bool),
    s.turns = .engine w :: .engine next :: rest → decode w = .instr (.serialSetEnabled rx true) →
    s.canDispatch = false → s.uart.uInit = true → s.uart.txe = true → s.uart.rxc = false →
    s.timer.ovf = false → s.irq.gie = true → s.irq.src = 0 →
    ∃ t, run 2 s = .next t ∧ t.trace = s.trace ++ [.callback .txe] ∧ t.irq.src = 1 ∧
      t.turns = .engine next :: rest

/-- R209, R102 (c), R151 (b): a character in reception when reception is disabled is lost, even if reception is
enabled again before it ends. -/
def Obligations.DisableDiscardsTheCharacterInReception : Prop :=
  ∀ (s t u : State) (tx tx' : Bool) (b : Byte),
    exec (.serialSetEnabled false tx) s = .next t → exec (.serialSetEnabled true tx') t = .next u →
    hwEvent (.rxComplete b) t = t ∧ hwEvent (.rxComplete b) u = u

/-- R206, R151 (a), R104: two characters completed before a read leave the later one, whatever the character size
is (in 7-bit mode the later byte's low seven bits, the spec's decision D10); the read answers it alone, and a second
read finds none: it records CV3. -/
def Obligations.OverrunKeepsTheLaterByte : Prop :=
  ∀ (s : State) (b₁ b₂ : Byte), s.uart.rxen = true → s.uart.uInit = true →
    let t := hwEvent (.rxComplete b₂) (hwEvent .rxStart (hwEvent (.rxComplete b₁) (hwEvent .rxStart s)))
    ∃ v u u', v.toNat = (if s.uart.chsize then b₂.toNat else b₂.toNat % 128) ∧
      exec .serialReadByte t = .next u ∧ u.trace = s.trace ++ [.response v] ∧ u.uart.rxc = false ∧
      exec .serialReadByte u = .next u' ∧ .cv3 ∈ u'.cvLog

/-- R39, R140 (b), R206: while `GIE` stays 0 nothing is dispatched, along every run that executes no
`IRQ_GLOBAL 1`: the critical section of R203. -/
def Obligations.NothingIsDispatchedWhileDisabled : Prop :=
  ∀ (k : Nat) (s t : State), run k s = .next t → s.irq.gie = false → ¬executes k s (.irqGlobal true) →
    callbacks t.trace = callbacks s.trace

/-- R103, R152, R153 (the parity bit is the spec's general knowledge G1, log entry 12; free with `PMODE` = 3, log
entry 11): a byte written is sent once: the next `TX_DRAIN` emits its character with its parity bit and frees the
register, which makes the interrupt deliverable again when it is unmasked, and a second `TX_DRAIN` does nothing. -/
def Obligations.WrittenByteIsSentOnce : Prop :=
  ∀ (s t : State) (byte : Byte), exec (.serialWriteByte byte) s = .next t → s.uart.txen = true →
    let u := hwEvent .txDrain t
    (∃ d : Byte, d.toNat = (if s.uart.chsize then byte.toNat else byte.toNat % 128) ∧
      u.trace = s.trace ++ [.line d (parityBit s.uart.pmode d (Config.freeParity s.freeCount))]) ∧
    u.deliverable .txe = s.uart.txeie ∧ hwEvent .txDrain u = u
end

