-- ==== Sys2Proof/Laws/Fields.lean ====
section
/-! SUPPORT. The small lemmas of bit fields: what a field reads after a field is written, and that every accessor
of one field is unchanged by the writing of another. -/

namespace Sys2Proof.Machine

/-! ### Bit fields -/

/-- A bit of a register after a field is written: the field's bit inside it, the old bit outside it. -/
theorem getLsbD_putField {n : Nat} (r : Byte) (lo : Nat) (v : BitVec n) (j : Nat) (hj : j < 8) :
    (putField r lo v).getLsbD j = if lo ≤ j ∧ j < lo + n then v.getLsbD (j - lo) else r.getLsbD j := by
  by_cases hlo : lo ≤ j
  · by_cases hn : j < lo + n
    · have h₁ : j - lo < n := by omega
      have h₃ : ¬j < lo := by omega
      simp [putField, hj, hlo, hn, h₁, h₃]
    · have h₁ : ¬j - lo < n := by omega
      have h₂ : v.getLsbD (j - lo) = false := BitVec.getLsbD_of_ge v _ (by omega)
      simp [putField, hj, hn, h₁, h₂]
  · have h₁ : j < lo := by omega
    simp [putField, hj, hlo, h₁]

/-- A bit of a register after a bit is written. -/
theorem getLsbD_putBit (r : Byte) (k : Nat) (b : Bool) (j : Nat) (hj : j < 8) :
    (putBit r k b).getLsbD j = if j = k then b else r.getLsbD j := by
  rw [putBit, getLsbD_putField r k _ j hj]
  by_cases h : j = k
  · subst h; simp
  · have h' : ¬(k ≤ j ∧ j < k + 1) := by omega
    rw [if_neg h', if_neg h]

/-- A field of a register after a bit outside it is written. -/
theorem extract_putBit_of_outside (r : Byte) (k : Nat) (b : Bool) (lo len : Nat) (hlen : lo + len ≤ 8)
    (hk : k < lo ∨ lo + len ≤ k) : (putBit r k b).extractLsb' lo len = r.extractLsb' lo len := by
  apply BitVec.eq_of_getLsbD_eq
  intro j hj
  have h : ¬lo + j = k := by omega
  simp only [BitVec.getLsbD_extractLsb', getLsbD_putBit r k b (lo + j) (by omega), h, if_false]

/-- A field of a register after another field, disjoint from it, is written. -/
theorem extract_putField_of_outside {n : Nat} (r : Byte) (k : Nat) (v : BitVec n) (lo len : Nat)
    (hlen : lo + len ≤ 8) (hk : k + n ≤ lo ∨ lo + len ≤ k) :
    (putField r k v).extractLsb' lo len = r.extractLsb' lo len := by
  apply BitVec.eq_of_getLsbD_eq
  intro j hj
  have h : ¬(k ≤ lo + j ∧ lo + j < k + n) := by omega
  simp only [BitVec.getLsbD_extractLsb', getLsbD_putField r k v (lo + j) (by omega), h, if_false]

/-- A field of a register after that field is written. -/
theorem extract_putField_self {n : Nat} (r : Byte) (k : Nat) (v : BitVec n) (hk : k + n ≤ 8) :
    (putField r k v).extractLsb' k n = v := by
  apply BitVec.eq_of_getLsbD_eq
  intro j hj
  have h : k ≤ k + j ∧ k + j < k + n := by omega
  simp only [BitVec.getLsbD_extractLsb', getLsbD_putField r k v (k + j) (by omega), h, and_self, if_true,
    hj, decide_true, Bool.true_and]
  congr 1
  omega

/-- Writing a bit twice leaves the second value. -/
@[simp] theorem putBit_putBit (r : Byte) (k : Nat) (a b : Bool) : putBit (putBit r k a) k b = putBit r k b := by
  apply BitVec.eq_of_getLsbD_eq
  intro j hj
  simp only [getLsbD_putBit _ k _ j hj]
  split <;> rfl

/-- Writing the value a bit has changes nothing. -/
theorem putBit_self (r : Byte) (k : Nat) (b : Bool) (h : r.getLsbD k = b) : putBit r k b = r := by
  apply BitVec.eq_of_getLsbD_eq
  intro j hj
  rw [getLsbD_putBit r k b j hj]
  split
  · subst_vars; rfl
  · rfl

/-! ### The fields of `U_CTRL` and `T_CTRL` as they are assigned -/

@[simp] theorem ctrlValue_bits (rxen txen rxie txeie : Bool) :
    (ctrlValue rxen txen rxie txeie).getLsbD 0 = rxen ∧ (ctrlValue rxen txen rxie txeie).getLsbD 1 = txen ∧
    (ctrlValue rxen txen rxie txeie).getLsbD 2 = rxie ∧ (ctrlValue rxen txen rxie txeie).getLsbD 3 = txeie ∧
    (ctrlValue rxen txen rxie txeie).extractLsb' 4 4 = 0 := by
  revert rxen txen rxie txeie; decide

/-- The four values of rule R102. -/
theorem ctrlValue_cases (rx tx : Bool) :
    ctrlValue rx true rx tx =
      (match rx, tx with
        | false, false => 0x02 | false, true => 0x0A | true, false => 0x07 | true, true => 0x0F) := by
  revert rx tx; decide

@[simp] theorem timerCtrlValue_bits (c : BitVec 3) (b : Bool) :
    (timerCtrlValue c b).getLsbD 0 = b ∧ (timerCtrlValue c b).extractLsb' 1 3 = c ∧
    (timerCtrlValue c b).extractLsb' 4 4 = 0 := by
  revert c b; decide

/-- `PRESC_SEL * 2 + 1` (R122 (e)). -/
theorem timerCtrlValue_toNat (c : BitVec 3) : (timerCtrlValue c true).toNat = c.toNat * 2 + 1 := by
  revert c; decide

/-- The low seven bits as a number. -/
theorem sevenBits_toNat (v : Byte) : (sevenBits v).toNat = v.toNat % 128 := by
  revert v; decide

/-! ### An accessor after a write of its own field, and of the other field of its register -/

@[simp] theorem rxc_setRxc (u : Uart) (b : Bool) : (u.setRxc b).rxc = b := by
  simp [Uart.rxc, Uart.setRxc, getLsbD_putBit, -BitVec.getLsbD_eq_getElem]
@[simp] theorem txe_setRxc (u : Uart) (b : Bool) : (u.setRxc b).txe = u.txe := by
  simp [Uart.txe, Uart.setRxc, getLsbD_putBit, -BitVec.getLsbD_eq_getElem]
@[simp] theorem txe_setTxe (u : Uart) (b : Bool) : (u.setTxe b).txe = b := by
  simp [Uart.txe, Uart.setTxe, getLsbD_putBit, -BitVec.getLsbD_eq_getElem]
@[simp] theorem rxc_setTxe (u : Uart) (b : Bool) : (u.setTxe b).rxc = u.rxc := by
  simp [Uart.rxc, Uart.setTxe, getLsbD_putBit, -BitVec.getLsbD_eq_getElem]
@[simp] theorem chsize_setChsize (u : Uart) (b : Bool) : (u.setChsize b).chsize = b := by
  simp [Uart.chsize, Uart.setChsize, getLsbD_putBit, -BitVec.getLsbD_eq_getElem]
@[simp] theorem pmode_setChsize (u : Uart) (b : Bool) : (u.setChsize b).pmode = u.pmode := by
  simp [Uart.pmode, Uart.setChsize, extract_putBit_of_outside]
@[simp] theorem pmode_setPmode (u : Uart) (m : BitVec 2) : (u.setPmode m).pmode = m := by
  simp [Uart.pmode, Uart.setPmode, extract_putField_self]
@[simp] theorem chsize_setPmode (u : Uart) (m : BitVec 2) : (u.setPmode m).chsize = u.chsize := by
  simp [Uart.chsize, Uart.setPmode, getLsbD_putField, -BitVec.getLsbD_eq_getElem]
@[simp] theorem run_setRun (t : Timer) (b : Bool) : (t.setRun b).run = b := by
  simp [Timer.run, Timer.setRun, getLsbD_putBit, -BitVec.getLsbD_eq_getElem]
@[simp] theorem clksel_setRun (t : Timer) (b : Bool) : (t.setRun b).clksel = t.clksel := by
  simp [Timer.clksel, Timer.setRun, extract_putBit_of_outside]
@[simp] theorem ovie_setOvie (t : Timer) (b : Bool) : (t.setOvie b).ovie = b := by
  simp [Timer.ovie, Timer.setOvie, getLsbD_putBit, -BitVec.getLsbD_eq_getElem]
@[simp] theorem ovf_setOvf (t : Timer) (b : Bool) : (t.setOvf b).ovf = b := by
  simp [Timer.ovf, Timer.setOvf, getLsbD_putBit, -BitVec.getLsbD_eq_getElem]
@[simp] theorem gie_setGie (q : Irq) (b : Bool) : (q.setGie b).gie = b := by
  simp [Irq.gie, Irq.setGie, getLsbD_putBit, -BitVec.getLsbD_eq_getElem]
@[simp] theorem src_setGie (q : Irq) (b : Bool) : (q.setGie b).src = q.src := rfl
@[simp] theorem src_setSrc (q : Irq) (n : BitVec 2) : (q.setSrc n).src = n := by
  simp [Irq.src, Irq.setSrc, extract_putField_self]
@[simp] theorem gie_setSrc (q : Irq) (n : BitVec 2) : (q.setSrc n).gie = q.gie := rfl
@[simp] theorem ovie_setOvf (t : Timer) (b : Bool) : (t.setOvf b).ovie = t.ovie := rfl
@[simp] theorem ovf_setOvie (t : Timer) (b : Bool) : (t.setOvie b).ovf = t.ovf := rfl
@[simp] theorem run_setOvie (t : Timer) (b : Bool) : (t.setOvie b).run = t.run := rfl
@[simp] theorem run_setOvf (t : Timer) (b : Bool) : (t.setOvf b).run = t.run := rfl
@[simp] theorem ovie_setRun (t : Timer) (b : Bool) : (t.setRun b).ovie = t.ovie := rfl
@[simp] theorem ovf_setRun (t : Timer) (b : Bool) : (t.setRun b).ovf = t.ovf := rfl

end Sys2Proof.Machine
end

