-- ==== Sys2Proof/Laws/State.lean ====
section
/-! SUPPORT. One lemma per field per update: what every named update of the state leaves in every field, and every
accessor of a register the update does not write. -/

namespace Sys2Proof.Machine

/-! ### `U_STATUS.RXC <- b` -/

@[simp] theorem Uart.setRxc_baud (u : Uart) (b : Bool) : (u.setRxc b).baud = u.baud := rfl
@[simp] theorem Uart.setRxc_ctrl (u : Uart) (b : Bool) : (u.setRxc b).ctrl = u.ctrl := rfl
@[simp] theorem Uart.setRxc_frame (u : Uart) (b : Bool) : (u.setRxc b).frame = u.frame := rfl
@[simp] theorem Uart.setRxc_status (u : Uart) (b : Bool) : (u.setRxc b).status = putBit u.status 0 b := rfl
@[simp] theorem Uart.setRxc_txdata (u : Uart) (b : Bool) : (u.setRxc b).txdata = u.txdata := rfl
@[simp] theorem Uart.setRxc_rxdata (u : Uart) (b : Bool) : (u.setRxc b).rxdata = u.rxdata := rfl
@[simp] theorem Uart.setRxc_rxBusy (u : Uart) (b : Bool) : (u.setRxc b).rxBusy = u.rxBusy := rfl
@[simp] theorem Uart.setRxc_uInit (u : Uart) (b : Bool) : (u.setRxc b).uInit = u.uInit := rfl

/-! ### `U_STATUS.TXE <- b` -/

@[simp] theorem Uart.setTxe_baud (u : Uart) (b : Bool) : (u.setTxe b).baud = u.baud := rfl
@[simp] theorem Uart.setTxe_ctrl (u : Uart) (b : Bool) : (u.setTxe b).ctrl = u.ctrl := rfl
@[simp] theorem Uart.setTxe_frame (u : Uart) (b : Bool) : (u.setTxe b).frame = u.frame := rfl
@[simp] theorem Uart.setTxe_status (u : Uart) (b : Bool) : (u.setTxe b).status = putBit u.status 1 b := rfl
@[simp] theorem Uart.setTxe_txdata (u : Uart) (b : Bool) : (u.setTxe b).txdata = u.txdata := rfl
@[simp] theorem Uart.setTxe_rxdata (u : Uart) (b : Bool) : (u.setTxe b).rxdata = u.rxdata := rfl
@[simp] theorem Uart.setTxe_rxBusy (u : Uart) (b : Bool) : (u.setTxe b).rxBusy = u.rxBusy := rfl
@[simp] theorem Uart.setTxe_uInit (u : Uart) (b : Bool) : (u.setTxe b).uInit = u.uInit := rfl

/-! ### `U_FRAME.CHSIZE <- b` -/

@[simp] theorem Uart.setChsize_baud (u : Uart) (b : Bool) : (u.setChsize b).baud = u.baud := rfl
@[simp] theorem Uart.setChsize_ctrl (u : Uart) (b : Bool) : (u.setChsize b).ctrl = u.ctrl := rfl
@[simp] theorem Uart.setChsize_frame (u : Uart) (b : Bool) : (u.setChsize b).frame = putBit u.frame 2 b := rfl
@[simp] theorem Uart.setChsize_status (u : Uart) (b : Bool) : (u.setChsize b).status = u.status := rfl
@[simp] theorem Uart.setChsize_txdata (u : Uart) (b : Bool) : (u.setChsize b).txdata = u.txdata := rfl
@[simp] theorem Uart.setChsize_rxdata (u : Uart) (b : Bool) : (u.setChsize b).rxdata = u.rxdata := rfl
@[simp] theorem Uart.setChsize_rxBusy (u : Uart) (b : Bool) : (u.setChsize b).rxBusy = u.rxBusy := rfl
@[simp] theorem Uart.setChsize_uInit (u : Uart) (b : Bool) : (u.setChsize b).uInit = u.uInit := rfl

/-! ### `U_FRAME.PMODE <- m` -/

@[simp] theorem Uart.setPmode_baud (u : Uart) (m : BitVec 2) : (u.setPmode m).baud = u.baud := rfl
@[simp] theorem Uart.setPmode_ctrl (u : Uart) (m : BitVec 2) : (u.setPmode m).ctrl = u.ctrl := rfl
@[simp] theorem Uart.setPmode_frame (u : Uart) (m : BitVec 2) : (u.setPmode m).frame = putField u.frame 0 m := rfl
@[simp] theorem Uart.setPmode_status (u : Uart) (m : BitVec 2) : (u.setPmode m).status = u.status := rfl
@[simp] theorem Uart.setPmode_txdata (u : Uart) (m : BitVec 2) : (u.setPmode m).txdata = u.txdata := rfl
@[simp] theorem Uart.setPmode_rxdata (u : Uart) (m : BitVec 2) : (u.setPmode m).rxdata = u.rxdata := rfl
@[simp] theorem Uart.setPmode_rxBusy (u : Uart) (m : BitVec 2) : (u.setPmode m).rxBusy = u.rxBusy := rfl
@[simp] theorem Uart.setPmode_uInit (u : Uart) (m : BitVec 2) : (u.setPmode m).uInit = u.uInit := rfl

/-! ### `T_CTRL.RUN <- b` -/

@[simp] theorem Timer.setRun_cfg (t : Timer) (b : Bool) : (t.setRun b).cfg = t.cfg := rfl
@[simp] theorem Timer.setRun_ctrl (t : Timer) (b : Bool) : (t.setRun b).ctrl = putBit t.ctrl 0 b := rfl
@[simp] theorem Timer.setRun_intctrl (t : Timer) (b : Bool) : (t.setRun b).intctrl = t.intctrl := rfl
@[simp] theorem Timer.setRun_intflags (t : Timer) (b : Bool) : (t.setRun b).intflags = t.intflags := rfl
@[simp] theorem Timer.setRun_per (t : Timer) (b : Bool) : (t.setRun b).per = t.per := rfl
@[simp] theorem Timer.setRun_cnt (t : Timer) (b : Bool) : (t.setRun b).cnt = t.cnt := rfl
@[simp] theorem Timer.setRun_tInit (t : Timer) (b : Bool) : (t.setRun b).tInit = t.tInit := rfl

/-! ### `T_INTCTRL.OVIE <- b` -/

@[simp] theorem Timer.setOvie_cfg (t : Timer) (b : Bool) : (t.setOvie b).cfg = t.cfg := rfl
@[simp] theorem Timer.setOvie_ctrl (t : Timer) (b : Bool) : (t.setOvie b).ctrl = t.ctrl := rfl
@[simp] theorem Timer.setOvie_intctrl (t : Timer) (b : Bool) : (t.setOvie b).intctrl = putBit t.intctrl 0 b := rfl
@[simp] theorem Timer.setOvie_intflags (t : Timer) (b : Bool) : (t.setOvie b).intflags = t.intflags := rfl
@[simp] theorem Timer.setOvie_per (t : Timer) (b : Bool) : (t.setOvie b).per = t.per := rfl
@[simp] theorem Timer.setOvie_cnt (t : Timer) (b : Bool) : (t.setOvie b).cnt = t.cnt := rfl
@[simp] theorem Timer.setOvie_tInit (t : Timer) (b : Bool) : (t.setOvie b).tInit = t.tInit := rfl

/-! ### `T_INTFLAGS.OVF <- b` -/

@[simp] theorem Timer.setOvf_cfg (t : Timer) (b : Bool) : (t.setOvf b).cfg = t.cfg := rfl
@[simp] theorem Timer.setOvf_ctrl (t : Timer) (b : Bool) : (t.setOvf b).ctrl = t.ctrl := rfl
@[simp] theorem Timer.setOvf_intctrl (t : Timer) (b : Bool) : (t.setOvf b).intctrl = t.intctrl := rfl
@[simp] theorem Timer.setOvf_intflags (t : Timer) (b : Bool) : (t.setOvf b).intflags = putBit t.intflags 0 b := rfl
@[simp] theorem Timer.setOvf_per (t : Timer) (b : Bool) : (t.setOvf b).per = t.per := rfl
@[simp] theorem Timer.setOvf_cnt (t : Timer) (b : Bool) : (t.setOvf b).cnt = t.cnt := rfl
@[simp] theorem Timer.setOvf_tInit (t : Timer) (b : Bool) : (t.setOvf b).tInit = t.tInit := rfl

/-! ### `I_CTRL.GIE <- b` -/

@[simp] theorem Irq.setGie_ctrl (q : Irq) (b : Bool) : (q.setGie b).ctrl = putBit q.ctrl 0 b := rfl
@[simp] theorem Irq.setGie_svc (q : Irq) (b : Bool) : (q.setGie b).svc = q.svc := rfl

/-! ### `I_SVC.SRC <- n` -/

@[simp] theorem Irq.setSrc_ctrl (q : Irq) (n : BitVec 2) : (q.setSrc n).ctrl = q.ctrl := rfl
@[simp] theorem Irq.setSrc_svc (q : Irq) (n : BitVec 2) : (q.setSrc n).svc = putField q.svc 0 n := rfl

/-! ### `emit o` -/

@[simp] theorem State.emit_uart (s : State) (o : Output) : (s.emit o).uart = s.uart := rfl
@[simp] theorem State.emit_timer (s : State) (o : Output) : (s.emit o).timer = s.timer := rfl
@[simp] theorem State.emit_irq (s : State) (o : Output) : (s.emit o).irq = s.irq := rfl
@[simp] theorem State.emit_cvLog (s : State) (o : Output) : (s.emit o).cvLog = s.cvLog := rfl
@[simp] theorem State.emit_freeCount (s : State) (o : Output) : (s.emit o).freeCount = s.freeCount := rfl
@[simp] theorem State.emit_trace (s : State) (o : Output) : (s.emit o).trace = s.trace ++ [o] := rfl
@[simp] theorem State.emit_turns (s : State) (o : Output) : (s.emit o).turns = s.turns := rfl

/-! ### `one more free value` -/

@[simp] theorem State.drawn_uart (s : State) : s.drawn.uart = s.uart := rfl
@[simp] theorem State.drawn_timer (s : State) : s.drawn.timer = s.timer := rfl
@[simp] theorem State.drawn_irq (s : State) : s.drawn.irq = s.irq := rfl
@[simp] theorem State.drawn_cvLog (s : State) : s.drawn.cvLog = s.cvLog := rfl
@[simp] theorem State.drawn_freeCount (s : State) : s.drawn.freeCount = s.freeCount + 1 := rfl
@[simp] theorem State.drawn_trace (s : State) : s.drawn.trace = s.trace := rfl
@[simp] theorem State.drawn_turns (s : State) : s.drawn.turns = s.turns := rfl

/-! ### `CV_LOG <- CV_LOG + c` -/

@[simp] theorem State.logViolation_uart (s : State) (c : CvCode) : (s.logViolation c).uart = s.uart := rfl
@[simp] theorem State.logViolation_timer (s : State) (c : CvCode) : (s.logViolation c).timer = s.timer := rfl
@[simp] theorem State.logViolation_irq (s : State) (c : CvCode) : (s.logViolation c).irq = s.irq := rfl
@[simp] theorem State.logViolation_cvLog (s : State) (c : CvCode) : (s.logViolation c).cvLog = insertCode c s.cvLog := rfl
@[simp] theorem State.logViolation_freeCount (s : State) (c : CvCode) : (s.logViolation c).freeCount = s.freeCount := rfl
@[simp] theorem State.logViolation_trace (s : State) (c : CvCode) : (s.logViolation c).trace = s.trace := rfl
@[simp] theorem State.logViolation_turns (s : State) (c : CvCode) : (s.logViolation c).turns = s.turns := rfl

/-! ### `enterCallback`, `leaveCallback` -/

@[simp] theorem enterCallback_uart (src : Source) (s : State) : (enterCallback src s).uart = s.uart := rfl
@[simp] theorem enterCallback_timer (src : Source) (s : State) : (enterCallback src s).timer = acknowledge src s.timer := rfl
@[simp] theorem enterCallback_irq (src : Source) (s : State) : (enterCallback src s).irq = s.irq.setSrc src.number := rfl
@[simp] theorem enterCallback_cvLog (src : Source) (s : State) : (enterCallback src s).cvLog = s.cvLog := rfl
@[simp] theorem enterCallback_freeCount (src : Source) (s : State) : (enterCallback src s).freeCount = s.freeCount := rfl
@[simp] theorem enterCallback_trace (src : Source) (s : State) : (enterCallback src s).trace = s.trace ++ [.callback src] := rfl
@[simp] theorem enterCallback_turns (src : Source) (s : State) : (enterCallback src s).turns = s.turns := rfl
@[simp] theorem leaveCallback_uart (s : State) : (leaveCallback s).uart = s.uart := rfl
@[simp] theorem leaveCallback_timer (s : State) : (leaveCallback s).timer = s.timer := rfl
@[simp] theorem leaveCallback_irq (s : State) : (leaveCallback s).irq = s.irq.setSrc 0 := rfl
@[simp] theorem leaveCallback_cvLog (s : State) : (leaveCallback s).cvLog = s.cvLog := rfl
@[simp] theorem leaveCallback_freeCount (s : State) : (leaveCallback s).freeCount = s.freeCount := rfl
@[simp] theorem leaveCallback_trace (s : State) : (leaveCallback s).trace = s.trace := rfl
@[simp] theorem leaveCallback_turns (s : State) : (leaveCallback s).turns = s.turns := rfl

/-! ### Accessors of the registers a setter does not write -/

@[simp] theorem Uart.rxen_setRxc (u : Uart) (b : Bool) : (u.setRxc b).rxen = u.rxen := rfl
@[simp] theorem Uart.txen_setRxc (u : Uart) (b : Bool) : (u.setRxc b).txen = u.txen := rfl
@[simp] theorem Uart.rxie_setRxc (u : Uart) (b : Bool) : (u.setRxc b).rxie = u.rxie := rfl
@[simp] theorem Uart.txeie_setRxc (u : Uart) (b : Bool) : (u.setRxc b).txeie = u.txeie := rfl
@[simp] theorem Uart.pmode_setRxc (u : Uart) (b : Bool) : (u.setRxc b).pmode = u.pmode := rfl
@[simp] theorem Uart.chsize_setRxc (u : Uart) (b : Bool) : (u.setRxc b).chsize = u.chsize := rfl
@[simp] theorem Uart.rxen_setTxe (u : Uart) (b : Bool) : (u.setTxe b).rxen = u.rxen := rfl
@[simp] theorem Uart.txen_setTxe (u : Uart) (b : Bool) : (u.setTxe b).txen = u.txen := rfl
@[simp] theorem Uart.rxie_setTxe (u : Uart) (b : Bool) : (u.setTxe b).rxie = u.rxie := rfl
@[simp] theorem Uart.txeie_setTxe (u : Uart) (b : Bool) : (u.setTxe b).txeie = u.txeie := rfl
@[simp] theorem Uart.pmode_setTxe (u : Uart) (b : Bool) : (u.setTxe b).pmode = u.pmode := rfl
@[simp] theorem Uart.chsize_setTxe (u : Uart) (b : Bool) : (u.setTxe b).chsize = u.chsize := rfl
@[simp] theorem Uart.rxen_setChsize (u : Uart) (b : Bool) : (u.setChsize b).rxen = u.rxen := rfl
@[simp] theorem Uart.txen_setChsize (u : Uart) (b : Bool) : (u.setChsize b).txen = u.txen := rfl
@[simp] theorem Uart.rxie_setChsize (u : Uart) (b : Bool) : (u.setChsize b).rxie = u.rxie := rfl
@[simp] theorem Uart.txeie_setChsize (u : Uart) (b : Bool) : (u.setChsize b).txeie = u.txeie := rfl
@[simp] theorem Uart.rxc_setChsize (u : Uart) (b : Bool) : (u.setChsize b).rxc = u.rxc := rfl
@[simp] theorem Uart.txe_setChsize (u : Uart) (b : Bool) : (u.setChsize b).txe = u.txe := rfl
@[simp] theorem Uart.rxen_setPmode (u : Uart) (m : BitVec 2) : (u.setPmode m).rxen = u.rxen := rfl
@[simp] theorem Uart.txen_setPmode (u : Uart) (m : BitVec 2) : (u.setPmode m).txen = u.txen := rfl
@[simp] theorem Uart.rxie_setPmode (u : Uart) (m : BitVec 2) : (u.setPmode m).rxie = u.rxie := rfl
@[simp] theorem Uart.txeie_setPmode (u : Uart) (m : BitVec 2) : (u.setPmode m).txeie = u.txeie := rfl
@[simp] theorem Uart.rxc_setPmode (u : Uart) (m : BitVec 2) : (u.setPmode m).rxc = u.rxc := rfl
@[simp] theorem Uart.txe_setPmode (u : Uart) (m : BitVec 2) : (u.setPmode m).txe = u.txe := rfl

end Sys2Proof.Machine
end

