-- ==== Sys2Proof/Laws/Flags.lean ====
section
/-! SUPPORT. What the choice of a source comes to: `deliverables`, `allowed`, `chosen`, `dispatchable`, and what the
next turn comes to. -/

namespace Sys2Proof.Machine

/-- The list of deliverable sources holds exactly the deliverable ones. -/
@[simp] theorem State.mem_deliverables (s : State) (src : Source) :
    src ∈ s.deliverables ↔ s.deliverable src = true := by
  cases src <;> simp [State.deliverables]

/-- Some source is deliverable. -/
theorem State.anyDeliverable_iff (s : State) : s.anyDeliverable = true ↔ ∃ src, s.deliverable src = true := by
  constructor
  · intro h
    simp only [State.anyDeliverable, Bool.or_eq_true] at h
    rcases h with (h | h) | h
    · exact ⟨_, h⟩
    · exact ⟨_, h⟩
    · exact ⟨_, h⟩
  · rintro ⟨src, h⟩
    cases src <;> simp [State.anyDeliverable, h]

/-- Every order names every source. -/
theorem Priority_mem_toList (o : Priority) (src : Source) : src ∈ o.toList := by
  cases o <;> cases src <;> decide

/-- What `can_dispatch` says. -/
theorem State.canDispatch_iff (s : State) :
    s.canDispatch = true ↔ s.irq.gie = true ∧ s.irq.src = 0 ∧ ∃ src, s.deliverable src = true := by
  simp [State.canDispatch, State.inMain, ← State.anyDeliverable_iff, and_assoc]

/-- While a callback runs nothing can be dispatched, whatever `GIE` is (R178). -/
theorem State.canDispatch_of_callback (s : State) (h : s.irq.src ≠ 0) : s.canDispatch = false := by
  have : s.inMain = false := by simpa [State.inMain] using h
  simp [State.canDispatch, this]

/-- While `GIE` is 0 nothing can be dispatched (R39). -/
theorem State.canDispatch_of_disabled (s : State) (h : s.irq.gie = false) : s.canDispatch = false := by
  simp [State.canDispatch, h]

/-- A total order's first deliverable source is deliverable. -/
theorem State.first_deliverable {s : State} {o : Priority} {src : Source} (h : s.first o = some src) :
    s.deliverable src = true := List.find?_some h

/-- When a source is deliverable, every order has a first one. -/
theorem State.first_exists (s : State) (o : Priority) (h : ∃ src, s.deliverable src = true) :
    ∃ src, s.first o = some src := by
  obtain ⟨src, hsrc⟩ := h
  have : (s.first o).isSome := by
    rw [State.first, List.find?_isSome]
    exact ⟨src, Priority_mem_toList o src, hsrc⟩
  exact Option.isSome_iff_exists.mp this

/-- When one source alone is deliverable, it is the first in every order. -/
theorem State.first_of_sole {s : State} {src : Source} (o : Priority) (h : s.deliverables = [src]) :
    s.first o = some src := by
  have hmem : ∀ x, s.deliverable x = true → x = src := fun x hx => by
    have := (s.mem_deliverables x).mpr hx
    simpa [h] using this
  have hsrc : s.deliverable src = true := by
    rw [← s.mem_deliverables, h]; simp
  obtain ⟨x, hx⟩ := s.first_exists o ⟨src, hsrc⟩
  rw [hx, hmem x (State.first_deliverable hx)]

/-- For a deliverable source, `allowed` is what `IRQ_ORDER` says: anything with `any`, the first deliverable source
with a total order. -/
theorem State.allowed_eq (s : State) (order : IrqOrder) (src : Source) :
    s.allowed order src =
      match order with
      | .any => true
      | .total o => s.first o == some src := by
  cases order with
  | any => simp [State.allowed]
  | total o =>
    by_cases h : s.deliverables = [src]
    · simp [State.allowed, h, State.first_of_sole o h]
    · simp [State.allowed, h]

/-- The source taken before a command that waits is the first one in some order, and that order is `IRQ_ORDER`'s
when it is total. -/
theorem State.chosen_is_first (s : State) (p : Params) :
    ∃ o, s.chosen p = s.first o ∧ ∀ o', p.irqOrder = .total o' → o = o' := by
  have hsole : ∀ src, s.deliverables = [src] → ∀ o, s.chosen p = s.first o := fun src h o => by
    simp [State.chosen, h, State.first_of_sole o h]
  by_cases h : ∃ src, s.deliverables = [src]
  · obtain ⟨src, hsrc⟩ := h
    cases hp : p.irqOrder with
    | any => exact ⟨.txeRxTmr, hsole src hsrc _, by simp⟩
    | total o => exact ⟨o, hsole src hsrc _, by simp⟩
  · have hchosen : s.chosen p =
        match p.irqOrder with
        | .any => s.first (Config.freeOrder s.freeCount)
        | .total o => s.first o := by
      unfold State.chosen
      split
      · exact absurd ⟨_, ‹_›⟩ h
      · rfl
    cases hp : p.irqOrder with
    | any => exact ⟨Config.freeOrder s.freeCount, by simp [hchosen, hp], by simp⟩
    | total o => exact ⟨o, by simp [hchosen, hp], by simp⟩

/-- While `can_dispatch` holds a source is chosen, and its `DISPATCH` is enabled. -/
theorem State.chosen_dispatchable (s : State) (p : Params) (h : s.canDispatch = true) :
    ∃ src, s.chosen p = some src ∧ s.dispatchable p src = true := by
  obtain ⟨o, hfirst, hord⟩ := s.chosen_is_first p
  obtain ⟨-, -, hany⟩ := s.canDispatch_iff.mp h
  obtain ⟨src, hsrc⟩ := s.first_exists o hany
  refine ⟨src, by rw [hfirst, hsrc], ?_⟩
  have hdel := State.first_deliverable hsrc
  have hall : s.allowed p.irqOrder src = true := by
    rw [State.allowed_eq]
    cases hp : p.irqOrder with
    | any => rfl
    | total o' => simp [← hord o' hp, hsrc]
  simp [State.dispatchable, h, hdel, hall]

/-- An enabled `DISPATCH` needs `can_dispatch` and its source deliverable (R174). -/
theorem State.dispatchable_imp {s : State} {p : Params} {src : Source} (h : s.dispatchable p src = true) :
    s.canDispatch = true ∧ s.deliverable src = true := by
  simp only [State.dispatchable, Bool.and_eq_true] at h
  exact ⟨h.1.1, h.1.2⟩

/-! ### What a turn comes to -/

/-- A turn that comes to `DISPATCH(src)` finds it enabled. -/
theorem State.action_dispatch {s : State} {p : Params} {src : Source} (h : s.action p = .dispatch src) :
    s.dispatchable p src = true := by
  unfold State.action at h
  split at h
  · cases h
  · split at h
    · rename_i hc
      obtain ⟨x, hx, hd⟩ := s.chosen_dispatchable p hc
      rw [hx] at h
      cases h
      exact hd
    · split at h <;> cases h
  · cases h
  · split at h
    · cases h; assumption
    · cases h

/-- A turn that comes to the command `i` is the engine's, with a word of `i`, and no dispatch goes first. -/
theorem State.action_command {s : State} {p : Params} {i : Instr} (h : s.action p = .command i) :
    ∃ w rest, s.turns = .engine w :: rest ∧ decode w = .instr i ∧ s.canDispatch = false := by
  unfold State.action at h
  split at h
  · cases h
  · rename_i w rest hturns
    split at h
    · split at h <;> cases h
    · rename_i hc
      split at h
      · rename_i i' hi
        cases h
        exact ⟨w, rest, hturns, hi, by simpa using hc⟩
      · cases h
  · cases h
  · split at h <;> cases h

/-- A turn that comes to a hardware event is that event's. -/
theorem State.action_event {s : State} {p : Params} {e : HwEvent} (h : s.action p = .event e) :
    ∃ rest, s.turns = .hardware e :: rest := by
  unfold State.action at h
  split at h
  · cases h
  · split at h
    · split at h <;> cases h
    · split at h <;> cases h
  · rename_i e' rest hturns
    cases h
    exact ⟨rest, hturns⟩
  · split at h <;> cases h

/-- Using up a turn changes nothing but the turns and the counter of free values. -/
theorem State.afterTurn_frame (s : State) :
    s.afterTurn.uart = s.uart ∧ s.afterTurn.timer = s.timer ∧ s.afterTurn.irq = s.irq ∧
    s.afterTurn.cvLog = s.cvLog ∧ s.afterTurn.trace = s.trace := by
  unfold State.afterTurn
  split <;> exact ⟨rfl, rfl, rfl, rfl, rfl⟩

@[simp] theorem State.afterTurn_uart (s : State) : s.afterTurn.uart = s.uart := s.afterTurn_frame.1
@[simp] theorem State.afterTurn_timer (s : State) : s.afterTurn.timer = s.timer := s.afterTurn_frame.2.1
@[simp] theorem State.afterTurn_irq (s : State) : s.afterTurn.irq = s.irq := s.afterTurn_frame.2.2.1
@[simp] theorem State.afterTurn_cvLog (s : State) : s.afterTurn.cvLog = s.cvLog := s.afterTurn_frame.2.2.2.1
@[simp] theorem State.afterTurn_trace (s : State) : s.afterTurn.trace = s.trace := s.afterTurn_frame.2.2.2.2

/-- Outside a wait the turn is dropped. -/
theorem State.afterTurn_of_not_holds {s : State} (h : s.holds = false) :
    s.afterTurn = { s with turns := s.turns.tail } := by
  simp [State.afterTurn, h]

/-- The turns after a step are the turns before it, or those without the first. -/
theorem State.afterTurn_turns (s : State) : s.afterTurn.turns = s.turns ∨ s.afterTurn.turns = s.turns.tail := by
  unfold State.afterTurn
  split
  · exact .inl rfl
  · exact .inr rfl

end Sys2Proof.Machine
end

