-- ==== Sys2Proof/Laws/Ops.lean ====
section
/-! SUPPORT. One lemma for each shared operation that says everything it does: the register-number space, `CV_LOG`,
the set-enabled step, taking an interrupt and returning from it, and the components' part of each command. -/

namespace Sys2Proof.Machine

/-! ### The register-number space (R60, R61) -/

/-- A register's number names it. -/
@[simp] theorem Reg.ofNumber_number (r : Reg) : Reg.ofNumber r.number = some r := by cases r <;> rfl

/-- Numbers above 13 name no register. -/
theorem Reg.ofNumber_isSome (n : Nat) : (Reg.ofNumber n).isSome ↔ n ≤ 13 := by
  constructor
  · intro h
    by_contra hn
    have : Reg.ofNumber n = none := by
      unfold Reg.ofNumber
      split <;> first | omega | rfl
    simp [this] at h
  · intro h
    interval_cases n <;> rfl

/-- A register reads what was written to it. -/
@[simp] theorem State.read_write_self (s : State) (r : Reg) (v : BitVec r.width) : (s.write r v).read r = v := by
  cases r <;> rfl

/-- A write leaves every other register. -/
theorem State.read_write_of_ne (s : State) (r q : Reg) (v : BitVec r.width) (h : q ≠ r) :
    (s.write r v).read q = s.read q := by
  cases r <;> cases q <;> first | rfl | exact absurd rfl h

/-- A write of the value a register holds changes nothing. -/
@[simp] theorem State.write_read (s : State) (r : Reg) : s.write r (s.read r) = s := by cases r <;> rfl

/-- `MemRead(i, n)` at a register's number and width is the register. -/
theorem State.memRead_number (s : State) (r : Reg) : s.memRead r.number r.width = some (s.read r) := by
  simp [State.memRead]

/-! ### `CV_LOG` (R43) -/

/-- The codes of a log after a code is added. -/
@[simp] theorem mem_insertCode (c d : CvCode) (log : List CvCode) : d ∈ insertCode c log ↔ d = c ∨ d ∈ log := by
  induction log with
  | nil => simp [insertCode]
  | cons e rest ih =>
    unfold insertCode
    split
    · simp
    · split
      · subst_vars; simp
      · simp [ih]; tauto

/-- A code's number names it. -/
theorem CvCode_number_inj (c d : CvCode) (h : c.number = d.number) : c = d := by
  cases c <;> cases d <;> first | rfl | cases h

/-- Adding a code keeps the canonical form. -/
theorem risingCodes_insertCode (c : CvCode) (log : List CvCode) (h : risingCodes log = true) :
    risingCodes (insertCode c log) = true := by
  induction log with
  | nil => rfl
  | cons d rest ih =>
    unfold insertCode
    split
    · rename_i hlt
      simp [risingCodes, hlt, h]
    · split
      · exact h
      · rename_i hnlt hne
        have hlt : d.number < c.number := by
          have := mt (CvCode_number_inj c d) hne
          omega
        cases rest with
        | nil => simp [insertCode, risingCodes, hlt]
        | cons e rest =>
          simp only [risingCodes, Bool.and_eq_true, decide_eq_true_eq] at h
          have ih' := ih h.2
          unfold insertCode at ih' ⊢
          split at ih' <;> rename_i hce
          · rw [if_pos hce]
            simp only [risingCodes, Bool.and_eq_true, decide_eq_true_eq]
            exact ⟨hlt, hce, h.2⟩
          · rw [if_neg hce]
            split at ih' <;> rename_i hcd
            · rw [if_pos hcd]
              simp only [risingCodes, Bool.and_eq_true, decide_eq_true_eq]
              exact ⟨h.1, h.2⟩
            · rw [if_neg hcd]
              simp only [risingCodes, Bool.and_eq_true, decide_eq_true_eq]
              exact ⟨h.1, ih'⟩

/-! ### The set-enabled step (R102) -/

/-- Everything `set_enabled(rx, tx)` does. -/
theorem setEnabled_spec (p : Params) (rx tx : Bool) (u : Uart) :
    (setEnabled p rx tx u).ctrl = ctrlValue rx true rx tx ∧
    (setEnabled p rx tx u).rxBusy = (u.rxBusy && rx) ∧
    (setEnabled p rx tx u).status =
      (if !rx && p.rxFlushOnDisable then putBit u.status 0 false else u.status) ∧
    (setEnabled p rx tx u).baud = u.baud ∧ (setEnabled p rx tx u).frame = u.frame ∧
    (setEnabled p rx tx u).txdata = u.txdata ∧ (setEnabled p rx tx u).rxdata = u.rxdata ∧
    (setEnabled p rx tx u).uInit = u.uInit := by
  cases rx <;> simp [setEnabled]

/-- The flags after `set_enabled(rx, tx)`. -/
theorem setEnabled_flags (p : Params) (rx tx : Bool) (u : Uart) :
    (setEnabled p rx tx u).rxc = (u.rxc && (rx || !p.rxFlushOnDisable)) ∧
    (setEnabled p rx tx u).txe = u.txe ∧
    (setEnabled p rx tx u).status.extractLsb' 2 6 = u.status.extractLsb' 2 6 := by
  obtain ⟨-, -, h, -⟩ := setEnabled_spec p rx tx u
  simp only [Uart.rxc, Uart.txe, h]
  split <;> rename_i hf
  · simp only [Bool.and_eq_true, Bool.not_eq_true'] at hf
    simp [getLsbD_putBit, extract_putBit_of_outside, hf, -BitVec.getLsbD_eq_getElem]
  · cases rx <;> simp_all

/-! ### Frame operands (R100) -/

/-- What `DBITS` writes. -/
theorem programChsize_spec (dbits : Nat) (u : Uart) :
    (u.programChsize dbits).chsize = (if dbits = 8 then true else if dbits = 7 then false else u.chsize) ∧
    (u.programChsize dbits).pmode = u.pmode ∧
    (u.programChsize dbits).frame.extractLsb' 3 5 = u.frame.extractLsb' 3 5 ∧
    u.programChsize dbits = { u with frame := (u.programChsize dbits).frame } := by
  unfold Uart.programChsize
  split
  · exact ⟨by simp, by simp, by simp [extract_putBit_of_outside], rfl⟩
  · split
    · exact ⟨by simp, by simp, by simp [extract_putBit_of_outside], rfl⟩
    · exact ⟨rfl, rfl, rfl, rfl⟩

/-- What `PAR` writes. -/
theorem programPmode_spec (par : Parity) (u : Uart) :
    (u.programPmode par).pmode =
      (match par with | .none => 0 | .even => 1 | .odd => 2 | .unmatched => u.pmode) ∧
    (u.programPmode par).chsize = u.chsize ∧
    (u.programPmode par).frame.extractLsb' 3 5 = u.frame.extractLsb' 3 5 ∧
    u.programPmode par = { u with frame := (u.programPmode par).frame } := by
  cases par <;>
    first
    | exact ⟨rfl, rfl, rfl, rfl⟩
    | exact ⟨pmode_setPmode _ _, chsize_setPmode _ _, extract_putField_of_outside _ _ _ _ _ (by omega) (by omega),
        rfl⟩

/-! ### Taking an interrupt (R174) -/

/-- Everything `DISPATCH` does to the timer. -/
theorem acknowledge_spec (src : Source) (t : Timer) :
    (acknowledge src t).ovf = (t.ovf && src != .tmr) ∧ (acknowledge src t).ovie = (t.ovie && src != .tmr) ∧
    (acknowledge src t).intctrl.extractLsb' 1 7 = t.intctrl.extractLsb' 1 7 ∧
    (acknowledge src t).intflags.extractLsb' 1 7 = t.intflags.extractLsb' 1 7 ∧
    (acknowledge src t).cfg = t.cfg ∧ (acknowledge src t).ctrl = t.ctrl ∧ (acknowledge src t).per = t.per ∧
    (acknowledge src t).cnt = t.cnt ∧ (acknowledge src t).tInit = t.tInit := by
  cases src <;> simp [acknowledge, extract_putBit_of_outside]

/-- The numbers of the sources. -/
theorem Source_number_ne_zero (src : Source) : src.number ≠ 0 := by cases src <;> decide

end Sys2Proof.Machine
end

