-- ==== Sys2Proof/Laws/Step.lean ====
section
/-! SUPPORT. Inversion of `exec` and `step`: from an answer `next t`, everything that can have happened; and the
induction over runs, packaged once. -/

namespace Sys2Proof.Machine

/-! ### `exec`, one lemma per command that can stop -/

theorem exec_serialInit (par : Parity) (dbits port baud : Nat) (s : State) :
    exec (.serialInit par dbits port baud) s = .next (serialInit Config.params par dbits port baud s) := rfl

/-- Two next states are the same answer when they are the same state. -/
theorem next_eq_next {a t : State} : (.next a : Host.Outcome State Fault Refusal) = .next t ↔ t = a :=
  ⟨fun h => by cases h; rfl, fun h => by rw [h]⟩

theorem exec_serialSetEnabled_next {rx tx : Bool} {s t : State} :
    exec (.serialSetEnabled rx tx) s = .next t ↔
      s.uart.uInit = true ∧ t = { s with uart := setEnabled Config.params rx tx s.uart } := by
  by_cases h : s.uart.uInit = true <;> simp [exec, execSerialSetEnabled, serialSetEnabled, h, next_eq_next, -Host.Outcome.next.injEq]

theorem exec_serialWriteByte_next {byte : Byte} {s t : State} :
    exec (.serialWriteByte byte) s = .next t ↔
      s.uart.uInit = true ∧ s.uart.txe = true ∧
        t = { s with uart := { s.uart with txdata := byte }.setTxe false } := by
  by_cases h : s.uart.uInit = true <;> by_cases h' : s.uart.txe = true <;>
    simp [exec, execSerialWriteByte, h, h', next_eq_next, -Host.Outcome.next.injEq]

theorem exec_serialReadByte_next {s t : State} :
    exec .serialReadByte s = .next t ↔
      s.uart.uInit = true ∧
        t = (if s.uart.rxc then { s with uart := s.uart.setRxc false }.emit (.response s.uart.rxdata)
          else ((s.logViolation .cv3).drawn).emit (.response (Config.freeByte s.freeCount))) := by
  by_cases h : s.uart.uInit = true <;> by_cases h' : s.uart.rxc = true <;>
    simp [exec, execSerialReadByte, h, h', next_eq_next, -Host.Outcome.next.injEq]

theorem exec_timerInit (ticks : Nat) (s : State) :
    exec (.timerInit ticks) s = .next (timerInit Config.params ticks s) := rfl

theorem exec_timerEnable_next {s t : State} :
    exec .timerEnable s = .next t ↔
      s.timer.tInit = true ∧ t = { s with timer := enableTimer Config.params s.timer } := by
  by_cases h : s.timer.tInit = true <;> simp [exec, execTimerEnable, timerEnable, h, next_eq_next, -Host.Outcome.next.injEq]

theorem exec_timerDisable_next {s t : State} :
    exec .timerDisable s = .next t ↔ s.timer.tInit = true ∧ t = { s with timer := disableTimer s.timer } := by
  by_cases h : s.timer.tInit = true <;> simp [exec, execTimerDisable, h, next_eq_next, -Host.Outcome.next.injEq]

theorem exec_irqGlobal (en : Bool) (s : State) :
    exec (.irqGlobal en) s = .next { s with irq := s.irq.setGie en } := rfl

theorem exec_cbRet_next {s t : State} :
    exec .cbRet s = .next t ↔ s.irq.src ≠ 0 ∧ t = leaveCallback s := by
  by_cases h : s.irq.src = 0#2 <;> simp [exec, execCbRet, State.inMain, h, next_eq_next, -Host.Outcome.next.injEq]

/-! ### `step` -/

/-- Everything a step that answers a next state can have done. -/
theorem step_next_cases {s t : State} (h : step s = .next t) :
    (s.action Config.params = .idle ∧ t = s.afterTurn) ∨
    (∃ i, s.action Config.params = .command i ∧ exec i s.afterTurn = .next t) ∨
    (∃ e, s.action Config.params = .event e ∧ t = hwEvent e s.afterTurn) ∨
    (∃ src, s.action Config.params = .dispatch src ∧ s.dispatchable Config.params src = true ∧
      t = enterCallback src s.afterTurn) := by
  unfold step at h
  split at h
  · rename_i ha
    cases h
    exact .inl ⟨ha, rfl⟩
  · cases h
  · rename_i i ha
    exact .inr (.inl ⟨i, ha, h⟩)
  · rename_i e ha
    cases h
    exact .inr (.inr (.inl ⟨e, ha, rfl⟩))
  · rename_i src ha
    cases h
    exact .inr (.inr (.inr ⟨src, ha, State.action_dispatch ha, rfl⟩))

/-- No command touches the turns. -/
theorem exec_turns {i : Instr} {s t : State} (h : exec i s = .next t) : t.turns = s.turns := by
  cases i with
  | serialInit par dbits port baud => rw [exec_serialInit] at h; cases h; rfl
  | serialSetEnabled rx tx => obtain ⟨-, rfl⟩ := exec_serialSetEnabled_next.mp h; rfl
  | serialWriteByte byte => obtain ⟨-, -, rfl⟩ := exec_serialWriteByte_next.mp h; rfl
  | serialReadByte => obtain ⟨-, rfl⟩ := exec_serialReadByte_next.mp h; split <;> rfl
  | timerInit ticks => rw [exec_timerInit] at h; cases h; rfl
  | timerEnable => obtain ⟨-, rfl⟩ := exec_timerEnable_next.mp h; rfl
  | timerDisable => obtain ⟨-, rfl⟩ := exec_timerDisable_next.mp h; rfl
  | irqGlobal en => rw [exec_irqGlobal] at h; cases h; rfl
  | cbRet => obtain ⟨-, rfl⟩ := exec_cbRet_next.mp h; rfl

/-- No hardware event touches the turns, the interrupt controller or `CV_LOG`. -/
theorem hwEvent_frame (e : HwEvent) (s : State) :
    (hwEvent e s).turns = s.turns ∧ (hwEvent e s).irq = s.irq ∧ (hwEvent e s).cvLog = s.cvLog := by
  cases e with
  | rxStart => simp only [hwEvent, rxStart]; split <;> exact ⟨rfl, rfl, rfl⟩
  | rxComplete b => simp only [hwEvent, rxComplete]; split <;> exact ⟨rfl, rfl, rfl⟩
  | txDrain => simp only [hwEvent, txDrain]; split <;> exact ⟨rfl, rfl, rfl⟩
  | tclk => exact ⟨rfl, rfl, rfl⟩

/-- The turns after a step are the turns before it, or those without the first. -/
theorem step_turns {s t : State} (h : step s = .next t) : t.turns = s.turns ∨ t.turns = s.turns.tail := by
  rcases step_next_cases h with ⟨-, rfl⟩ | ⟨i, -, hi⟩ | ⟨e, -, rfl⟩ | ⟨src, -, -, rfl⟩
  · exact s.afterTurn_turns
  · rw [exec_turns hi]; exact s.afterTurn_turns
  · rw [(hwEvent_frame e _).1]; exact s.afterTurn_turns
  · exact s.afterTurn_turns

/-! ### Runs -/

@[simp] theorem run_zero (s : State) : run 0 s = .next s := rfl

/-- A run of `k + 1` steps is a step, and a run of `k` from where it leads. -/
theorem run_succ (k : Nat) (s : State) :
    run (k + 1) s =
      match step s with
      | .next m => run k m
      | .fault f => .fault f
      | .refused r => .refused r := by
  have hstep : Sys2Proof.core.step s = step s := rfl
  unfold run
  simp only [Host.Core.run, hstep]
  cases step s <;> rfl

/-- A run of `k + 1` steps that answers a next state is a step and a run of `k`. -/
theorem run_succ_next {k : Nat} {s t : State} (h : run (k + 1) s = .next t) :
    ∃ m, step s = .next m ∧ run k m = .next t := by
  rw [run_succ] at h
  split at h
  · rename_i m hm
    exact ⟨m, hm, h⟩
  · cases h
  · cases h

/-- The other way: a step and a run compose. -/
theorem run_succ_of_step {k : Nat} {s m : State} (h : step s = .next m) : run (k + 1) s = run k m := by
  rw [run_succ, h]

/-- What every step keeps, every run keeps. -/
theorem run_keeps {P : State → Prop} (hstep : ∀ s t, P s → step s = .next t → P t) :
    ∀ (k : Nat) (s t : State), P s → run k s = .next t → P t := by
  intro k
  induction k with
  | zero => intro s t hs h; cases h; exact hs
  | succ k ih =>
    intro s t hs h
    obtain ⟨m, hm, hk⟩ := run_succ_next h
    exact ih m t (hstep s m hs hm) hk

/-! ### What a run executes -/

/-- No command is executed in no steps. -/
@[simp] theorem not_executes_zero (s : State) (i : Instr) : ¬executes 0 s i := by
  rintro ⟨j, m, hj, -⟩
  omega

/-- A run of `k + 1` steps whose first step leads to `m` executes what that step executes and what the run of `k`
from `m` executes. -/
theorem executes_succ {k : Nat} {s m : State} {i : Instr} (h : step s = .next m) :
    executes (k + 1) s i ↔ s.action Config.params = .command i ∨ executes k m i := by
  constructor
  · rintro ⟨j, n, hj, hn, hi⟩
    cases j with
    | zero => cases hn; exact .inl hi
    | succ j => exact .inr ⟨j, n, by omega, by rwa [run_succ_of_step h] at hn, hi⟩
  · rintro (hi | ⟨j, n, hj, hn, hi⟩)
    · exact ⟨0, s, by omega, rfl, hi⟩
    · exact ⟨j + 1, n, by omega, by rwa [run_succ_of_step h], hi⟩

/-- What every step that executes no command of `C` keeps, every run that executes none keeps. -/
theorem run_keeps_without {C : Instr → Prop} {P : State → Prop}
    (hstep : ∀ s t, P s → step s = .next t → (∀ i, C i → s.action Config.params ≠ .command i) → P t) :
    ∀ (k : Nat) (s t : State), P s → run k s = .next t → (∀ i, C i → ¬executes k s i) → P t := by
  intro k
  induction k with
  | zero => intro s t hs h _; cases h; exact hs
  | succ k ih =>
    intro s t hs h hC
    obtain ⟨m, hm, hk⟩ := run_succ_next h
    refine ih m t (hstep s m hs hm fun i hi ha => ?_) hk fun i hi he => ?_
    · exact hC i hi ((executes_succ hm).mpr (.inl ha))
    · exact hC i hi ((executes_succ hm).mpr (.inr he))

end Sys2Proof.Machine
end

