-- ==== Sys2Proof/Laws/Effects.lean ====
section
/-! SUPPORT. What a step that answers a next state does to each of the three groups of the state and to `CV_LOG`, by
the action it comes to. -/

namespace Sys2Proof.Machine

/-- Everything `SERIAL_INIT` does to the Serial Transport but the divisor (R100, `divisor`). -/
theorem initUart_spec (p : Params) (par : Parity) (dbits baud : Nat) (free : Half) (u : Uart) :
    let v := initUart p par dbits baud free u
    v.ctrl = 0x02 ∧ v.rxBusy = false ∧ v.rxc = (u.rxc && !p.rxFlushOnDisable) ∧ v.txe = u.txe ∧
    v.status.extractLsb' 2 6 = u.status.extractLsb' 2 6 ∧ v.txdata = u.txdata ∧ v.rxdata = u.rxdata ∧
    v.uInit = true ∧ v.frame.extractLsb' 3 5 = u.frame.extractLsb' 3 5 ∧
    v.pmode = (u.programPmode par).pmode ∧ v.chsize = (u.programChsize dbits).chsize := by
  have hc := programChsize_spec dbits { u with baud := divisor p.fPer baud free }
  have hp := programPmode_spec par (Uart.programChsize dbits { u with baud := divisor p.fPer baud free })
  obtain ⟨c1,c2,c3,c4⟩ := hc
  obtain ⟨q1,q2,q3,q4⟩ := hp
  set u1 := (Uart.programChsize dbits { u with baud := divisor p.fPer baud free }) with hu1
  set u2 := u1.programPmode par with hu2
  obtain ⟨s1,s2,s3,s4,s5,s6,s7,s8⟩ := setEnabled_spec p false false u2
  obtain ⟨f1,f2,f3⟩ := setEnabled_flags p false false u2
  have a : u2.status = u.status := by rw [q4, c4]
  have a2 : u2.txdata = u.txdata := by rw [q4, c4]
  have a3 : u2.rxdata = u.rxdata := by rw [q4, c4]
  have e : initUart p par dbits baud free u = { setEnabled p false false u2 with uInit := true } := rfl
  rw [e]
  refine ⟨?_, ?_, ?_, ?_, ?_, ?_, ?_, rfl, ?_, ?_, ?_⟩
  · show (setEnabled _ _ _ _).ctrl = _; rw [s1]; rfl
  · simp [s2]
  · simp only [Uart.rxc] at *; rw [f1, a]; simp
  · simp only [Uart.txe] at *; rw [f2, a]
  · dsimp only; rw [f3, a]
  · dsimp only; rw [s6, a2]
  · dsimp only; rw [s7, a3]
  · dsimp only; rw [s5, q3, c3]
  · rw [(programPmode_spec par u).1]; simp only [Uart.pmode] at *; rw [s5, q1, c2]
  · rw [(programChsize_spec dbits u).1]; simp only [Uart.chsize] at *; rw [s5, q2, c1]

/-- What a step does to the timer. -/
theorem step_timer {s t : State} (h : step s = .next t) :
   t.timer = match s.action Config.params with
     | .command (.timerInit k) => initTimer Config.params k (Config.freeHalf s.afterTurn.freeCount) s.timer
     | .command .timerEnable => enableTimer Config.params s.timer
     | .command .timerDisable => disableTimer s.timer
     | .event .tclk => countTimer s.timer
     | .dispatch src => acknowledge src s.timer
     | _ => s.timer := by
  rcases step_next_cases h with ⟨ha, rfl⟩ | ⟨i, ha, hi⟩ | ⟨e, ha, rfl⟩ | ⟨src, ha, -, rfl⟩
  · rw [ha]; exact State.afterTurn_timer s
  · rw [ha]; cases i with
    | serialInit par dbits port baud => rw [exec_serialInit] at hi; cases hi; exact State.afterTurn_timer s
    | serialSetEnabled rx tx => obtain ⟨-, rfl⟩ := exec_serialSetEnabled_next.mp hi; exact State.afterTurn_timer s
    | serialWriteByte byte => obtain ⟨-, -, rfl⟩ := exec_serialWriteByte_next.mp hi; exact State.afterTurn_timer s
    | serialReadByte => obtain ⟨-, rfl⟩ := exec_serialReadByte_next.mp hi; split <;> exact State.afterTurn_timer s
    | timerInit ticks => rw [exec_timerInit] at hi; cases hi; rw [← State.afterTurn_timer s]; rfl
    | timerEnable => obtain ⟨-, rfl⟩ := exec_timerEnable_next.mp hi; rw [← State.afterTurn_timer s]
    | timerDisable => obtain ⟨-, rfl⟩ := exec_timerDisable_next.mp hi; rw [← State.afterTurn_timer s]
    | irqGlobal en => rw [exec_irqGlobal] at hi; cases hi; exact State.afterTurn_timer s
    | cbRet => obtain ⟨-, rfl⟩ := exec_cbRet_next.mp hi; exact State.afterTurn_timer s
  · rw [ha]; cases e with
    | rxStart => simp only [hwEvent, rxStart]; split <;> exact State.afterTurn_timer s
    | rxComplete b => simp only [hwEvent, rxComplete]; split <;> exact State.afterTurn_timer s
    | txDrain => simp only [hwEvent, txDrain]; split <;> exact State.afterTurn_timer s
    | tclk => simp only [hwEvent, tclk]; rw [State.afterTurn_timer]
  · rw [ha]; simp only [enterCallback]; rw [← State.afterTurn_timer s]; rfl

/-- What a step does to the Serial Transport. -/
theorem step_uart {s t : State} (h : step s = .next t) :
   t.uart = match s.action Config.params with
     | .command (.serialInit par dbits _ baud) =>
         initUart Config.params par dbits baud (Config.freeHalf s.afterTurn.freeCount) s.uart
     | .command (.serialSetEnabled rx tx) => setEnabled Config.params rx tx s.uart
     | .command (.serialWriteByte b) => { s.uart with txdata := b }.setTxe false
     | .command .serialReadByte => if s.uart.rxc then s.uart.setRxc false else s.uart
     | .event .rxStart => if s.uart.rxen && !s.uart.rxBusy then { s.uart with rxBusy := true } else s.uart
     | .event (.rxComplete b) =>
         if s.uart.rxBusy then
           { s.uart with rxBusy := false, rxdata := if s.uart.chsize then b else sevenBits b }.setRxc true
         else s.uart
     | .event .txDrain => if !s.uart.txe && s.uart.txen then s.uart.setTxe true else s.uart
     | _ => s.uart := by
  rcases step_next_cases h with ⟨ha, rfl⟩ | ⟨i, ha, hi⟩ | ⟨e, ha, rfl⟩ | ⟨src, ha, -, rfl⟩
  · rw [ha]; exact State.afterTurn_uart s
  · rw [ha]; cases i with
    | serialInit par dbits port baud => rw [exec_serialInit] at hi; cases hi; rw [← State.afterTurn_uart s]; rfl
    | serialSetEnabled rx tx => obtain ⟨-, rfl⟩ := exec_serialSetEnabled_next.mp hi; rw [← State.afterTurn_uart s]
    | serialWriteByte byte => obtain ⟨-, -, rfl⟩ := exec_serialWriteByte_next.mp hi; rw [← State.afterTurn_uart s]
    | serialReadByte =>
      obtain ⟨-, rfl⟩ := exec_serialReadByte_next.mp hi
      rw [← State.afterTurn_uart s]; dsimp only; split <;> rfl
    | timerInit ticks => rw [exec_timerInit] at hi; cases hi; exact State.afterTurn_uart s
    | timerEnable => obtain ⟨-, rfl⟩ := exec_timerEnable_next.mp hi; exact State.afterTurn_uart s
    | timerDisable => obtain ⟨-, rfl⟩ := exec_timerDisable_next.mp hi; exact State.afterTurn_uart s
    | irqGlobal en => rw [exec_irqGlobal] at hi; cases hi; exact State.afterTurn_uart s
    | cbRet => obtain ⟨-, rfl⟩ := exec_cbRet_next.mp hi; exact State.afterTurn_uart s
  · rw [ha]; cases e with
    | rxStart => simp only [hwEvent, rxStart]; rw [← State.afterTurn_uart s]; split <;> rfl
    | rxComplete b => simp only [hwEvent, rxComplete]; rw [← State.afterTurn_uart s]; split <;> rfl
    | txDrain => simp only [hwEvent, txDrain]; rw [← State.afterTurn_uart s]; split <;> rfl
    | tclk => exact State.afterTurn_uart s
  · rw [ha]; exact State.afterTurn_uart s

/-- What a step does to the interrupt controller. -/
theorem step_irq {s t : State} (h : step s = .next t) :
   t.irq = match s.action Config.params with
     | .command (.irqGlobal en) => s.irq.setGie en
     | .command .cbRet => s.irq.setSrc 0
     | .dispatch src => s.irq.setSrc src.number
     | _ => s.irq := by
  rcases step_next_cases h with ⟨ha, rfl⟩ | ⟨i, ha, hi⟩ | ⟨e, ha, rfl⟩ | ⟨src, ha, -, rfl⟩
  · rw [ha]; exact State.afterTurn_irq s
  · rw [ha]; cases i with
    | serialInit par dbits port baud => rw [exec_serialInit] at hi; cases hi; exact State.afterTurn_irq s
    | serialSetEnabled rx tx => obtain ⟨-, rfl⟩ := exec_serialSetEnabled_next.mp hi; exact State.afterTurn_irq s
    | serialWriteByte byte => obtain ⟨-, -, rfl⟩ := exec_serialWriteByte_next.mp hi; exact State.afterTurn_irq s
    | serialReadByte => obtain ⟨-, rfl⟩ := exec_serialReadByte_next.mp hi; split <;> exact State.afterTurn_irq s
    | timerInit ticks => rw [exec_timerInit] at hi; cases hi; exact State.afterTurn_irq s
    | timerEnable => obtain ⟨-, rfl⟩ := exec_timerEnable_next.mp hi; exact State.afterTurn_irq s
    | timerDisable => obtain ⟨-, rfl⟩ := exec_timerDisable_next.mp hi; exact State.afterTurn_irq s
    | irqGlobal en => rw [exec_irqGlobal] at hi; cases hi; rw [← State.afterTurn_irq s]
    | cbRet => obtain ⟨-, rfl⟩ := exec_cbRet_next.mp hi; rw [← State.afterTurn_irq s]; rfl
  · rw [ha, (hwEvent_frame e _).2.1]; exact State.afterTurn_irq s
  · rw [ha]; simp only [enterCallback]; rw [← State.afterTurn_irq s]; rfl

/-- What a step does to `CV_LOG`. -/
theorem step_log {s t : State} (h : step s = .next t) :
   t.cvLog = match s.action Config.params with
     | .command .serialReadByte => if s.uart.rxc then s.cvLog else insertCode .cv3 s.cvLog
     | _ => s.cvLog := by
  rcases step_next_cases h with ⟨ha, rfl⟩ | ⟨i, ha, hi⟩ | ⟨e, ha, rfl⟩ | ⟨src, ha, -, rfl⟩
  · rw [ha]; exact State.afterTurn_cvLog s
  · rw [ha]; cases i with
    | serialInit par dbits port baud => rw [exec_serialInit] at hi; cases hi; exact State.afterTurn_cvLog s
    | serialSetEnabled rx tx => obtain ⟨-, rfl⟩ := exec_serialSetEnabled_next.mp hi; exact State.afterTurn_cvLog s
    | serialWriteByte byte => obtain ⟨-, -, rfl⟩ := exec_serialWriteByte_next.mp hi; exact State.afterTurn_cvLog s
    | serialReadByte =>
      obtain ⟨-, rfl⟩ := exec_serialReadByte_next.mp hi
      rw [← State.afterTurn_cvLog s, ← State.afterTurn_uart s]; dsimp only; split <;> rfl
    | timerInit ticks => rw [exec_timerInit] at hi; cases hi; exact State.afterTurn_cvLog s
    | timerEnable => obtain ⟨-, rfl⟩ := exec_timerEnable_next.mp hi; exact State.afterTurn_cvLog s
    | timerDisable => obtain ⟨-, rfl⟩ := exec_timerDisable_next.mp hi; exact State.afterTurn_cvLog s
    | irqGlobal en => rw [exec_irqGlobal] at hi; cases hi; exact State.afterTurn_cvLog s
    | cbRet => obtain ⟨-, rfl⟩ := exec_cbRet_next.mp hi; exact State.afterTurn_cvLog s
  · rw [ha, (hwEvent_frame e _).2.2]; exact State.afterTurn_cvLog s
  · rw [ha]; exact State.afterTurn_cvLog s

end Sys2Proof.Machine
end

