-- ==== Sys2Proof/Laws/PerInstr.lean ====
section
/-! SUPPORT. Statements made for every command as syntax, one lemma per constructor (LAWS.json names the families).

`EncodeRow`: the word of a command has the fixed bits of its row of spec/opcode_table.json. -/

namespace Sys2Proof.Laws.EncodeRow

/-- The word of `i` lies in the row of `i`. -/
def Statement (i : Instr) : Prop := encode i &&& i.row.mask = i.row.value

theorem serialInit (par : Parity) (dbits port baud : Nat) : Statement (.serialInit par dbits port baud) := by
  simp only [Statement, encode, Instr.row]
  apply BitVec.eq_of_getLsbD_eq
  intro j hj
  simp only [BitVec.getLsbD_and, BitVec.getLsbD_append]
  by_cases h : j < 28
  · have h₁ : (0xF0000000#32).getLsbD j = false := by
      interval_cases j <;> rfl
    have h₂ : (0x10000000#32).getLsbD j = false := by
      interval_cases j <;> rfl
    simp only [BitVec.ofNat_eq_ofNat, h₁, h₂, Bool.and_false]
  · interval_cases j <;> first | omega | rfl

theorem serialSetEnabled (rx tx : Bool) : Statement (.serialSetEnabled rx tx) := by
  revert rx tx; unfold Statement; decide

theorem serialWriteByte (byte : Byte) : Statement (.serialWriteByte byte) := by
  revert byte; unfold Statement; decide

theorem serialReadByte : Statement .serialReadByte := by unfold Statement; decide

theorem timerInit (ticks : Nat) : Statement (.timerInit ticks) := by
  simp only [Statement, encode, Instr.row]
  apply BitVec.eq_of_getLsbD_eq
  intro j hj
  simp only [BitVec.getLsbD_and, BitVec.getLsbD_append]
  by_cases h : j < 16
  · have h₁ : (0xFFFF0000#32).getLsbD j = false := by
      interval_cases j <;> rfl
    have h₂ : (0x50000000#32).getLsbD j = false := by
      interval_cases j <;> rfl
    simp only [BitVec.ofNat_eq_ofNat, h₁, h₂, Bool.and_false]
  · interval_cases j <;> first | omega | rfl

theorem timerEnable : Statement .timerEnable := by unfold Statement; decide

theorem timerDisable : Statement .timerDisable := by unfold Statement; decide

theorem irqGlobal (en : Bool) : Statement (.irqGlobal en) := by
  revert en; unfold Statement; decide

theorem cbRet : Statement .cbRet := by unfold Statement; decide

end Sys2Proof.Laws.EncodeRow
end

