-- ==== Sys2Proof/Tests/Slice0.lean ====
section
/-! SUPPORT. The model's own tests. Expected values come from spec/95_test_vectors.md (the section is named at each
group) or, for the operands' ranges, from spec/30_encoding.md R88. Where the machine's parameters matter the
operation is tested at `Params.illustrative`, the values that file uses. The second half holds one witness for each
obligation that has hypotheses: a concrete state and operands that meet all of them together. -/

namespace Sys2Proof.Tests

open Sys2Proof Sys2Proof.Machine

/-! ### Helpers -/

/-- An initialised Serial Transport. -/
def uart (ctrl frame status : Byte) (txdata rxdata : Byte := 0) (rxBusy : Bool := false) : Uart :=
  { baud := 0x0067, ctrl := ctrl, frame := frame, status := status, txdata := txdata, rxdata := rxdata,
    rxBusy := rxBusy, uInit := true }

/-- An initialised timer. -/
def timer (cfg : Half) (ctrl intctrl intflags : Byte) (per cnt : Half) : Timer :=
  { cfg := cfg, ctrl := ctrl, intctrl := intctrl, intflags := intflags, per := per, cnt := cnt, tInit := true }

/-- A stopped timer with period 35 ticks. -/
def idleTimer : Timer := timer 0x06D6 0x00 0x00 0x00 0 0

/-- A state from its parts. -/
def state (u : Uart) (t : Timer) (ictrl isvc : Byte) (turns : List Turn := []) : State :=
  { uart := u, timer := t, irq := { ctrl := ictrl, svc := isvc }, cvLog := [], freeCount := 0, trace := [],
    turns := turns }

/-- The next state of an outcome. -/
def after : Host.Outcome State Fault Refusal → Option State
  | .next t => some t
  | .fault _ => none
  | .refused _ => none

/-- What stops an outcome. -/
def stop : Host.Outcome State Fault Refusal → Option (Fault ⊕ Refusal)
  | .next _ => none
  | .fault f => some (.inl f)
  | .refused r => some (.inr r)

/-! ### WellFormed refuses each ill-formed operand (R88) -/

theorem test_wf_dbits : (Instr.serialInit .none 16 0 9600).wellFormed = false := by decide
theorem test_wf_port : (Instr.serialInit .none 8 4 9600).wellFormed = false := by decide
theorem test_wf_baud : (Instr.serialInit .none 8 0 1048576).wellFormed = false := by decide
theorem test_wf_ticks : (Instr.timerInit 65536).wellFormed = false := by decide

/-! ### Decoding and encoding (95 section 2.1) -/

theorem test_decode_serial_init :
    decode 0x1E402580 = .instr (.serialInit .unmatched 9 0 9600) ∧
    decode 0x19C04B00 = .instr (.serialInit .odd 7 0 19200) ∧
    decode 0x12000000 = .instr (.serialInit .none 8 0 0) ∧
    decode 0x1FFFFFFF = .instr (.serialInit .unmatched 15 3 1048575) := by decide
theorem test_decode_serial_set_enabled :
    decode 0x20000000 = .instr (.serialSetEnabled false false) ∧
    decode 0x20000001 = .instr (.serialSetEnabled false true) ∧
    decode 0x20000002 = .instr (.serialSetEnabled true false) ∧
    decode 0x20000003 = .instr (.serialSetEnabled true true) := by decide
theorem test_decode_bytes :
    decode 0x300000FF = .instr (.serialWriteByte 0xFF) ∧ decode 0x40000000 = .instr .serialReadByte := by decide
theorem test_decode_timer :
    decode 0x50000000 = .instr (.timerInit 0) ∧ decode 0x5000FFFF = .instr (.timerInit 65535) ∧
    decode 0x60000000 = .instr .timerEnable ∧ decode 0x70000000 = .instr .timerDisable := by decide
theorem test_decode_system :
    decode 0x80000000 = .instr (.irqGlobal false) ∧ decode 0x80000001 = .instr (.irqGlobal true) ∧
    decode 0x90000000 = .instr .cbRet := by decide
theorem test_reserved_opcodes :
    [0x00000000, 0xFFFFFFFF, 0xA0000000, 0xB0000000, 0xC0000000, 0xD0000000, 0xE0000000].map decode =
      List.replicate 7 (.invalid .opcode) := by decide
theorem test_reserved_bits :
    [0x20000004, 0x28000001, 0x30000100, 0x40000001, 0x60000001, 0x70000010, 0x90000001, 0x50010000,
      0x80000002].map decode = List.replicate 9 (.invalid .mustBeZero) := by decide
theorem test_encode :
    encode (.serialInit .odd 7 3 115200) = 0x19F1C200 ∧ encode (.serialSetEnabled true false) = 0x20000002 ∧
    encode (.serialWriteByte 0x41) = 0x30000041 ∧ encode .serialReadByte = 0x40000000 ∧
    encode (.timerInit 35) = 0x50000023 ∧ encode .timerEnable = 0x60000000 ∧
    encode .timerDisable = 0x70000000 ∧ encode (.irqGlobal true) = 0x80000001 ∧
    encode .cbRet = 0x90000000 := by decide
theorem test_table_word : decodeTableWord 32 0x50000023 = some (.timerInit 35) ∧ decodeTableWord 32 0 = none := by
  decide

/-! ### Serial Transport (95 sections 2.2 to 2.4) -/

theorem test_serial_init_from_reset :
    let t := serialInit Params.illustrative .even 8 0 9600 State.reset
    t.uart.frame = 0x05 ∧ t.uart.baud = 0x0067 ∧ t.uart.ctrl = 0x02 ∧ t.uart.status = 0x02 ∧
    t.uart.uInit = true ∧ t.trace = [.response 0x01] := by decide
theorem test_serial_init_keeps_unmatched_dbits :
    let t := serialInit Params.illustrative .odd 9 0 19200 (state (uart 0x0F 0x05 0x03 0 0 true) idleTimer 0 0)
    t.uart.frame = 0x06 ∧ t.uart.baud = 0x0033 ∧ t.uart.ctrl = 0x02 ∧ t.uart.status = 0x02 ∧
    t.uart.rxBusy = false := by decide
theorem test_set_enabled_flushes :
    (after (serialSetEnabled Params.illustrative false true
      (state (uart 0x0F 0x05 0x03 0 0x77 true) idleTimer 0 0))).map
      (fun t => (t.uart.ctrl, t.uart.status, t.uart.rxBusy)) = some (0x0A, 0x02, false) := by decide
theorem test_set_enabled_before_init :
    stop (exec (.serialSetEnabled true true) State.reset) = some (.inr .useBeforeInit) := by decide
theorem test_write_byte_keeps_rxc :
    (after (exec (.serialWriteByte 0xFF) (state (uart 0x0A 0x05 0x03) idleTimer 0 0))).map
      (fun t => (t.uart.txdata, t.uart.status)) = some (0xFF, 0x01) := by decide
theorem test_write_byte_not_free :
    stop (exec (.serialWriteByte 0x42) (state (uart 0x02 0x05 0x00) idleTimer 0 0)) =
      some (.inl .writeNotFree) := by decide
theorem test_read_byte :
    (after (exec .serialReadByte (state (uart 0x07 0x05 0x03 0 0x5A) idleTimer 0 0))).map
      (fun t => (t.trace, t.uart.status, t.uart.rxdata)) = some ([.response 0x5A], 0x02, 0x5A) := by decide
theorem test_read_nothing :
    (after (exec .serialReadByte (state (uart 0x07 0x05 0x02) idleTimer 0 0))).map
      (fun t => (t.cvLog, t.uart.status)) = some ([.cv3], 0x02) := by decide

/-! ### Timeout Timer (95 section 2.5) -/

theorem test_timer_init :
    let t := timerInit Params.illustrative 3 (state (uart 2 5 2) (timer 0x06D6 0x09 0x01 0x01 0x06D6 0x03E8) 0 0)
    t.timer = timer 0x0096 0x00 0x00 0x00 0x06D6 0x03E8 ∧ t.trace = [.response 0x01] := by decide
theorem test_timer_init_period :
    (timerInit Params.illustrative 35 State.reset).timer.cfg = 0x06D6 ∧
    (timerInit { Params.illustrative with tickCounts := 1 } 65535 State.reset).timer.cfg = 0xFFFF := by decide
theorem test_timer_enable_keeps_ovf :
    (after (timerEnable Params.illustrative
      (state (uart 2 5 2) (timer 0x06D6 0x09 0x00 0x01 0x06D6 0x03E8) 0 0))).map (·.timer) =
      some (timer 0x06D6 0x09 0x01 0x01 0x06D6 0) := by decide
theorem test_timer_enable_zero_period :
    (after (timerEnable { Params.illustrative with prescSel := 7 }
      (state (uart 2 5 2) (timer 0 0x00 0x00 0x00 0x06D6 0x03E8) 0 0))).map (·.timer) =
      some (timer 0 0x0F 0x00 0x00 0x06D6 0x03E8) := by decide
theorem test_timer_disable :
    (after (exec .timerDisable (state (uart 2 5 2) (timer 0x06D6 0x09 0x01 0x01 0x06D6 0x03E8) 0 0))).map
      (·.timer) = some (timer 0x06D6 0x08 0x00 0x00 0x06D6 0x03E8) := by decide
theorem test_timer_before_init :
    stop (exec .timerEnable State.reset) = some (.inr .useBeforeInit) ∧
    stop (exec .timerDisable State.reset) = some (.inr .useBeforeInit) := by decide

/-! ### System (95 section 2.6) -/

theorem test_irq_global_in_callback :
    (after (exec (.irqGlobal true) (state (uart 0x0A 5 2) idleTimer 0x00 0x01))).map
      (fun t => (t.irq, t.canDispatch)) = some ({ ctrl := 0x01, svc := 0x01 }, false) := by decide
theorem test_cb_ret :
    (after (exec .cbRet (state (uart 2 5 2) idleTimer 0x01 0x02))).map (·.irq) =
      some { ctrl := 0x01, svc := 0x00 } ∧
    stop (exec .cbRet (state (uart 2 5 2) idleTimer 0x01 0x00)) = some (.inr .returnInMain) := by decide

/-! ### Hardware events (95 section 2.7) -/

theorem test_rx_start :
    (hwEvent .rxStart (state (uart 0x07 5 2) idleTimer 0 0)).uart.rxBusy = true ∧
    (hwEvent .rxStart (state (uart 0x02 5 2) idleTimer 0 0)).uart.rxBusy = false := by decide
theorem test_rx_complete :
    (hwEvent (.rxComplete 0xDA) (state (uart 0x07 0x02 0x02 0 0 true) idleTimer 0 0)).uart =
      uart 0x07 0x02 0x03 0 0x5A ∧
    (hwEvent (.rxComplete 0x31) (state (uart 0x07 0x05 0x03 0 0x5A true) idleTimer 0 0)).uart =
      uart 0x07 0x05 0x03 0 0x31 := by decide
theorem test_tx_drain_even :
    (hwEvent .txDrain (state (uart 0x02 0x05 0x00 0x43) idleTimer 0 0)).trace = [.line 0x43 (some 1)] ∧
    (hwEvent .txDrain (state (uart 0x02 0x01 0x00 0xC1) idleTimer 0 0)).trace = [.line 0x41 (some 0)] := by decide
theorem test_tx_drain_odd_and_none :
    (hwEvent .txDrain (state (uart 0x02 0x02 0x00 0xFF) idleTimer 0 0)).trace = [.line 0x7F (some 0)] ∧
    (hwEvent .txDrain (state (uart 0x02 0x00 0x00 0xA5) idleTimer 0 0)).trace = [.line 0x25 none] := by decide
theorem test_tclk_period_one_and_max :
    countTimer (timer 1 0x09 1 0 1 0) = timer 1 0x09 1 1 1 0 ∧
    countTimer (timer 0xFFFF 0x09 1 0 0xFFFF 0xFFFE) = timer 0xFFFF 0x09 1 1 0xFFFF 0 := by decide
theorem test_tclk_period_zero :
    countTimer (timer 0 0x09 0 0 0 0xFFFE) = timer 0 0x09 0 0 0 0xFFFF ∧
    countTimer (timer 0 0x09 0 0 0 0xFFFF) = timer 0 0x09 0 1 0 0 ∧
    countTimer (timer 3 0x08 1 0 3 2) = timer 3 0x08 1 0 3 2 := by decide

/-! ### Dispatch (95 section 2.8) -/

/-- All three sources deliverable. -/
def allThree : State := state (uart 0x0F 5 0x03) (timer 0x06D6 9 1 1 0x06D6 0) 0x01 0x00

theorem test_dispatch_timer :
    let t := enterCallback .tmr allThree
    t.timer = timer 0x06D6 9 0 0 0x06D6 0 ∧ t.irq = { ctrl := 0x01, svc := 0x03 } ∧
    t.trace = [.callback .tmr] := by decide
theorem test_dispatch_order :
    [Source.txe, .rx, .tmr].map (allThree.dispatchable Params.illustrative) = [true, true, true] ∧
    [Source.txe, .rx, .tmr].map
      (allThree.dispatchable { Params.illustrative with irqOrder := .total .rxTmrTxe }) =
        [false, true, false] := by decide
theorem test_main_command_waits :
    (after (step (state (uart 0x0A 5 2) idleTimer 0x01 0x00 [.engine 0x60000000]))).map
      (fun t => (t.irq.svc, t.trace, t.turns)) =
        some (0x01, [.callback .txe], [.engine 0x60000000]) := by decide

/-! ### The fetch, and the register-number space (R61, R80) -/

theorem test_with_fetch_word :
    (after (step (State.reset.withFetchWord 32 0x80000001))).map (·.irq.ctrl) = some 0x01 ∧
    stop (step (State.reset.withFetchWord 32 0x80000002)) = some (.inr .reservedEncoding) := by decide
theorem test_register_space :
    State.reset.memRead 3 8 = some 0x02 ∧ State.reset.memRead 3 16 = none ∧ State.reset.memRead 14 8 = none ∧
    ((State.reset.memWrite 10 16 0x1234).map (·.timer.per)) = some 0x1234 := by decide

/-! ### Witnesses: for each obligation with hypotheses, a state and operands that meet them -/

/-- A run whose first step comes to an action that is not the command `i` executes `i` only later. -/
theorem not_executes_succ {k : Nat} {s m : State} {i : Instr} (a : Action) (hs : step s = .next m)
    (ha : s.action Config.params = a) (hi : a ≠ .command i) (hk : ¬executes k m i) : ¬executes (k + 1) s i := by
  rw [executes_succ hs, ha]
  exact not_or.mpr ⟨hi, hk⟩

/-- The invariant of a state built from small parts, by its decidable clauses. -/
theorem inv_of (s : State) (hu : s.uart.ctrl.extractLsb' 4 4 = 0 ∧ s.uart.frame.extractLsb' 3 5 = 0 ∧
      s.uart.status.extractLsb' 2 6 = 0 ∧ (s.uart.uInit = true → s.uart.txen = true) ∧
      s.uart.rxen = s.uart.rxie ∧ (s.uart.rxBusy = true → s.uart.rxen = true) ∧ s.uart.pmode ≠ 3 ∧
      (s.uart.txe = false → s.uart.uInit = true))
    (ht : s.timer.ctrl.extractLsb' 4 4 = 0 ∧ s.timer.intctrl.extractLsb' 1 7 = 0 ∧
      s.timer.intflags.extractLsb' 1 7 = 0 ∧ (s.timer.ovie = true → s.timer.run = true) ∧
      (s.timer.cfg = 0 → s.timer.ovie = false) ∧ (s.timer.per = 0 ∨ s.timer.cnt.toNat < s.timer.per.toNat) ∧
      (s.timer.tInit = false → s.timer.run = false ∧ s.timer.ovf = false))
    (hi : s.irq.ctrl.extractLsb' 1 7 = 0 ∧ s.irq.svc.extractLsb' 2 6 = 0) (hl : risingCodes s.cvLog = true) :
    s.Inv := by
  obtain ⟨u1, u2, u3, u4, u5, u6, u7, u8⟩ := hu
  obtain ⟨t1, t2, t3, t4, t5, t6, t7⟩ := ht
  exact ⟨⟨u1, u2, u3, u4, u5, u6, u7, u8⟩, ⟨t1, t2, t3, t4, t5, t6, t7⟩, ⟨hi.1, hi.2⟩, hl⟩

theorem witness_DecodeOfEncode :
    (Instr.serialInit .unmatched 15 3 1048575).WellFormed ∧ (Instr.serialInit .none 0 0 0).WellFormed ∧
    (Instr.timerInit 65535).WellFormed ∧ (Instr.serialWriteByte 0xFF).WellFormed := by decide

theorem witness_EncodeOfDecode :
    decode 0x1FFFFFFF = .instr (.serialInit .unmatched 15 3 1048575) ∧
    decode 0x5000FFFF = .instr (.timerInit 65535) := by decide

/-- Each clause of `ReservedWord` at its first word. -/
theorem witness_ReservedWord :
    ∀ w ∈ [0x0FFFFFFF, 0xA0000000, 0x20000004, 0x30000100, 0x50010000, 0x80000002, 0x40000001, 0x60000001,
      0x70000001, 0x90000001], ReservedWord w := by
  simp [ReservedWord]

/-- The words just outside its clauses. -/
theorem witness_not_ReservedWord :
    ∀ w ∈ [0x10000000, 0x90000000, 0x20000003, 0x300000FF, 0x5000FFFF, 0x80000001, 0x40000000, 0x60000000,
      0x70000000], ¬ReservedWord w := by
  simp [ReservedWord]

theorem witness_ReservedWordsAreRefused :
    let s := state (uart 2 5 2) idleTimer 0x01 0x00 [.engine 0x50010000]
    s.turns = .engine 0x50010000 :: [] ∧ s.canDispatch = false := by decide

theorem witness_DecoderAgreesWithOpcodeTable :
    Instr.row .cbRet ∈ opcodeTable ∧ (0x90000000 : Word) &&& (Instr.row .cbRet).mask = (Instr.row .cbRet).value := by
  decide

theorem witness_StepRunsTheDecodedCommand :
    let s := state (uart 2 5 2) idleTimer 0x01 0x00 [.engine 0x50000023, .hardware .tclk]
    s.turns = .engine 0x50000023 :: [.hardware .tclk] ∧ decode 0x50000023 = .instr (.timerInit 35) ∧
    s.canDispatch = false := by decide

theorem witness_StepPerformsEventsAndDispatches :
    let txe := state (uart 0x0A 5 2) idleTimer 0x01 0x00 [.dispatcher .txe]
    let masked := state (uart 0x02 5 2) idleTimer 0x01 0x00 [.dispatcher .txe]
    txe.turns = .dispatcher .txe :: [] ∧ txe.dispatchable Config.params .txe = true ∧
    masked.dispatchable Config.params .txe = false ∧ State.reset.turns = [] := by
  refine ⟨rfl, ?_, ?_, rfl⟩ <;> decide

theorem witness_MainCommandWaitsForDispatch :
    let main := state (uart 0x0A 5 2) idleTimer 0x01 0x00 [.engine 0x90000000]
    let callback := state (uart 0x0A 5 2) idleTimer 0x01 0x03 [.engine 0x90000000]
    main.turns = .engine 0x90000000 :: [] ∧ main.canDispatch = true ∧
    callback.turns = .engine 0x90000000 :: [] ∧ callback.irq.src ≠ 0 := by decide

/-- The quotient at both ends of the valid range, and beyond both; an answer of `SERIAL_INIT`. -/
theorem witness_DivisorLaw :
    (1 ≤ 1 ∧ 1 ≤ 1048576 / (16 * 1) ∧ 1048576 / (16 * 1) ≤ 65536) ∧
    (1 ≤ 1 ∧ 1 ≤ 16 / (16 * 1) ∧ 16 / (16 * 1) ≤ 65536) ∧
    ¬(1 ≤ 1 ∧ 1 ≤ 1048592 / (16 * 1) ∧ 1048592 / (16 * 1) ≤ 65536) ∧
    ¬(1 ≤ 1 ∧ 1 ≤ 15 / (16 * 1) ∧ 15 / (16 * 1) ≤ 65536) ∧
    ¬(1 ≤ 0 ∧ 1 ≤ 16 / (16 * 0) ∧ 16 / (16 * 0) ≤ 65536) ∧
    ∃ t, exec (.serialInit .even 8 0 9600) State.reset = .next t :=
  ⟨by decide, by decide, by decide, by decide, by decide, _, rfl⟩

theorem witness_SerialInitReappliesIdentically : validPair Params.illustrative.fPer 9600 = true := by decide

theorem witness_SerialSetEnabledResult :
    (state (uart 0x0F 5 3 0 0 true) idleTimer 0 0).uart.uInit = true ∧ State.reset.uart.uInit = false := by decide

theorem witness_SerialSetEnabledConverges :
    ∃ t m, exec (.serialSetEnabled true true) (state (uart 0x0F 5 3 0 0 true) idleTimer 0 0) = .next t ∧
      exec (.serialSetEnabled false false) (state (uart 0x0F 5 3 0 0 true) idleTimer 0 0) = .next m :=
  ⟨_, _, rfl, rfl⟩

theorem witness_SerialWriteByteResult :
    let free := state (uart 0x0A 5 2) idleTimer 0 0
    let full := state (uart 0x0A 5 0) idleTimer 0 0
    free.uart.uInit = true ∧ free.uart.txe = true ∧ full.uart.uInit = true ∧ full.uart.txe = false ∧
    State.reset.uart.uInit = false := by decide

theorem witness_SerialReadByteResult :
    let present := state (uart 0x07 5 3 0 0x5A) idleTimer 0 0
    let absent := state (uart 0x07 5 2) idleTimer 0 0
    present.uart.uInit = true ∧ present.uart.rxc = true ∧ absent.uart.uInit = true ∧ absent.uart.rxc = false ∧
    State.reset.uart.uInit = false := by decide

/-- The product at 65535 and at 65536, and the largest constant of one tick; an answer of `TIMER_INIT`. -/
theorem witness_PeriodLaw :
    65535 * 1 ≤ 65535 ∧ 65535 < 4096 * 16 ∧ 65535 ≤ 65535 ∧
    ∃ t, exec (.timerInit 35) State.reset = .next t :=
  ⟨by decide, by decide, by decide, _, rfl⟩

theorem witness_TimerEnableResult :
    idleTimer.tInit = true ∧ idleTimer.cfg ≠ 0 ∧ (timer 0 0 0 0 0 0).tInit = true ∧ (timer 0 0 0 0 0 0).cfg = 0 ∧
    State.reset.timer.tInit = false := by decide

theorem witness_TimerDisableResult : idleTimer.tInit = true ∧ State.reset.timer.tInit = false := by decide

theorem witness_CbRetResult :
    (state (uart 2 5 2) idleTimer 1 0x03).irq.src ≠ 0 ∧ (state (uart 2 5 2) idleTimer 1 0x00).irq.src = 0 := by
  decide

theorem witness_RxStartResult :
    (uart 0x07 5 2).rxen = true ∧ (uart 0x07 5 2).rxBusy = false ∧ (uart 0x02 5 2).rxen = false ∧
    (uart 0x07 5 2 0 0 true).rxBusy = true := by decide

theorem witness_RxCompleteResult :
    (uart 0x07 5 2 0 0 true).rxBusy = true ∧ (uart 0x07 5 2).rxBusy = false := by decide

theorem witness_TxDrainResult :
    (uart 0x02 5 0).txe = false ∧ (uart 0x02 5 0).txen = true ∧ (uart 0x02 5 2).txe = true ∧
    (uart 0x00 5 0).txen = false := by decide

theorem witness_TclkResult :
    (timer 1 9 1 0 1 0).run = true ∧ (0 + 1) % 65536 = (1 : Half).toNat ∧
    (timer 0 9 0 0 0 0xFFFF).run = true ∧ ((0xFFFF : Half).toNat + 1) % 65536 = (0 : Half).toNat ∧
    (0 + 1) % 65536 ≠ (3 : Half).toNat ∧ (timer 3 8 0 0 3 0).run = false := by decide

theorem witness_CounterReachesPeriodExactly :
    let t := timer 3 9 1 0 3 0
    t.run = true ∧ t.cnt = 0 ∧ t.per ≠ 0 ∧ t.ovf = false ∧ 2 < t.per.toNat := by decide

theorem witness_DispatchFollowsIrqOrder :
    allThree.canDispatch = true ∧ Params.illustrative.irqOrder = .any ∧
    ({ Params.illustrative with irqOrder := .total .rxTmrTxe } : Params).irqOrder = .total .rxTmrTxe ∧
    Source.rx ≠ .txe ∧ allThree.deliverable .rx = true := by decide

/-- For the statements whose only hypothesis is a step that answers a next state (CallbacksNeverNest,
OverflowEnableBitRule, UartFlagRule, UartRegisterRule, ViolationLogRule): a dispatch in main context, and a `CB_RET`
in a callback. -/
theorem witness_steps :
    (∃ t, step (state (uart 0x0A 5 2) idleTimer 0x01 0x00 [.dispatcher .txe]) = .next t) ∧
    (∃ t, step (state (uart 0x0A 5 2) idleTimer 0x01 0x01 [.engine 0x90000000]) = .next t) ∧
    (state (uart 0x0A 5 2) idleTimer 0x01 0x01).irq.src ≠ 0 :=
  ⟨⟨_, rfl⟩, ⟨_, rfl⟩, by decide⟩

theorem witness_ResponsesOfCommands :
    (∃ t, exec (.timerInit 35) State.reset = .next t) ∧
    (∃ t, exec .serialReadByte (state (uart 0x07 5 3 0 0x5A) idleTimer 0 0) = .next t) ∧
    ∃ t, exec .serialReadByte (state (uart 0x07 5 2) idleTimer 0 0) = .next t :=
  ⟨⟨_, rfl⟩, ⟨_, rfl⟩, ⟨_, rfl⟩⟩

theorem witness_StopsAreTheContractViolations :
    (uart 2 5 2).uInit = true ∧ (uart 2 5 2).rxc = false ∧
    (state (uart 2 5 2) idleTimer 1 0 [.engine 0]).turns = .engine 0 :: [] ∧
    (state (uart 2 5 2) idleTimer 1 0 [.engine 0]).canDispatch = false := by decide

theorem witness_InitBitsAreSetOnceAndKept :
    State.reset.uart.uInit = false ∧ State.reset.timer.tInit = false ∧
    ∃ t, step { State.reset with turns := [.engine 0x12002580] } = .next t :=
  ⟨rfl, rfl, _, rfl⟩

theorem witness_OverflowFlagRule :
    ∃ t, exec .timerDisable (state (uart 2 5 2) (timer 3 9 1 1 3 0) 0 0) = .next t := ⟨_, rfl⟩

theorem witness_PeriodAndCounterRule :
    ∃ t, exec .timerEnable (state (uart 2 5 2) (timer 3 9 1 1 3 2) 0 0) = .next t := ⟨_, rfl⟩

/-- A stopped timer whose turns arm it, start a character and then configure another period. -/
def busy : State :=
  state (uart 2 5 2) idleTimer 1 0 [.engine 0x60000000, .hardware .rxStart, .engine 0x50000003]

theorem witness_ConfiguredPeriodIsImmutable :
    (∃ t, run 2 busy = .next t) ∧ ∀ ticks, ¬executes 2 busy (.timerInit ticks) :=
  ⟨⟨_, rfl⟩, fun _ => not_executes_succ (.command .timerEnable) rfl rfl (by simp)
    (not_executes_succ (.event .rxStart) rfl rfl (by simp) (not_executes_zero _ _))⟩

theorem witness_InterruptControlRule :
    (state (uart 0x0A 5 2) idleTimer 0x00 0x00).irq.gie = false ∧
    (state (uart 0x0A 5 2) idleTimer 0x01 0x02).irq.src ≠ 0 ∧ decode 0x80000001 = .instr (.irqGlobal true) ∧
    (state (uart 0x0A 5 2) idleTimer 0x01 0x02 [.engine 0x80000001]).turns = .engine 0x80000001 :: [] := by decide

theorem witness_RegisterSpaceAccess :
    (State.reset.memWrite 13 8 0x03).isSome = true ∧ (State.reset.memWrite 0 16 0xFFFF).isSome = true ∧
    State.reset.memWrite 14 8 0x00 = none ∧ State.reset.memWrite 11 8 0x00 = none ∧ 12 ≠ 13 := by decide

theorem witness_StepsWriteOnlyTheirRegisters :
    let s := state (uart 2 5 2) idleTimer 1 0 [.engine 0x70000000]
    (∃ t, step s = .next t) ∧ s.action Config.params = .command .timerDisable ∧
    Reg.tCnt ∉ (Action.command .timerDisable).writes :=
  ⟨⟨_, rfl⟩, rfl, by decide⟩

/-- An armed timer, an initialised transport with a byte waiting: the invariant holds. -/
theorem witness_StepKeepsInvariant :
    let s := state (uart 0x0F 5 1) (timer 3 9 1 1 3 2) 1 3 [.hardware .tclk]
    s.Inv ∧ ∃ t, step s = .next t :=
  ⟨inv_of _ (by decide) (by decide) (by decide) (by decide), _, rfl⟩

theorem witness_ReachableUartInvariants :
    ∃ t, run 2 { State.reset with turns := [.engine 0x12002580, .hardware .rxStart] } = .next t := ⟨_, rfl⟩

/-- First clause: an uninitialised timer, and a step of `TIMER_INIT`. -/
theorem witness_TimerStateMachine_uninitialized :
    let s : State := { State.reset with turns := [.engine 0x50000023] }
    s.Inv ∧ (∃ t, step s = .next t) ∧ s.timer.uninitialized = true :=
  ⟨inv_of _ (by decide) (by decide) (by decide) (by decide), ⟨_, rfl⟩, by decide⟩

/-- Second clause: a step arms a timer that is not armed. -/
theorem witness_TimerStateMachine_armed :
    let s := state (uart 2 5 2) (timer 3 8 0 0 3 2) 1 0 [.engine 0x60000000]
    s.Inv ∧ s.timer.armed = false ∧ ∃ t, step s = .next t ∧ t.timer.armed = true := by
  refine ⟨inv_of _ (by decide) (by decide) (by decide) (by decide), by decide, _, rfl, ?_⟩
  exact Bool.and_eq_true_iff.mpr ⟨(timerCtrlValue_bits Config.params.prescSel true).1, by decide⟩

/-- Third clause: a step takes an armed timer's interrupt, and it is no longer armed. -/
theorem witness_TimerStateMachine_expiry :
    let s := state (uart 2 5 2) (timer 3 9 1 1 3 2) 1 0 [.dispatcher .tmr]
    s.Inv ∧ s.timer.armed = true ∧ ∃ t, step s = .next t ∧ t.timer.armed = false :=
  ⟨inv_of _ (by decide) (by decide) (by decide) (by decide), by decide, _, rfl, by decide⟩

theorem witness_NoExpiryAfterDisable :
    let s₀ := state (uart 2 5 2) (timer 3 9 1 1 3 2) 1 0
      [.hardware .tclk, .dispatcher .tmr, .engine 0x60000000]
    ∃ s t, exec .timerDisable s₀ = .next s ∧ run 2 s = .next t ∧ ¬executes 2 s .timerEnable :=
  ⟨_, _, rfl, rfl, not_executes_succ (.event .tclk) rfl rfl (by simp)
    (not_executes_succ .idle rfl rfl (by simp) (not_executes_zero _ _))⟩

theorem witness_ZeroTimeoutNeverExpires :
    let s₀ := state (uart 2 5 2) (timer 3 8 0 0 3 2) 1 0
      [.engine 0x60000000, .hardware .rxStart, .engine 0x50000003]
    ∃ s t, exec (.timerInit 0) s₀ = .next s ∧ run 2 s = .next t ∧ ∀ ticks, ¬executes 2 s (.timerInit ticks) :=
  ⟨_, _, rfl, rfl, fun _ => not_executes_succ (.command .timerEnable) rfl rfl (by simp)
    (not_executes_succ (.event .rxStart) rfl rfl (by simp) (not_executes_zero _ _))⟩

theorem witness_AtMostOneExpiryPerArming :
    let armed := state (uart 2 5 2) (timer 3 9 1 1 3 2) 1 0 [.dispatcher .tmr, .engine 0x60000000]
    let masked := state (uart 2 5 2) (timer 3 9 0 1 3 2) 1 0 [.dispatcher .tmr, .engine 0x60000000]
    ((∃ t, run 1 armed = .next t) ∧ ¬executes 1 armed .timerEnable) ∧
    (∃ t, run 1 masked = .next t) ∧ ¬executes 1 masked .timerEnable ∧ masked.timer.ovie = false :=
  ⟨⟨⟨_, rfl⟩, not_executes_succ (.dispatch .tmr) rfl rfl (by simp) (not_executes_zero _ _)⟩,
    ⟨_, rfl⟩, not_executes_succ .idle rfl rfl (by simp) (not_executes_zero _ _), by decide⟩

theorem witness_NoExpiryBeforeThePeriod :
    let s₀ := state (uart 2 5 2) (timer 3 8 0 0 0 0) 1 0
      [.hardware .tclk, .hardware .tclk, .dispatcher .tmr, .engine 0x60000000]
    ∃ s t, exec .timerEnable s₀ = .next s ∧ s₀.timer.cfg ≠ 0 ∧ s₀.timer.ovf = false ∧ run 2 s = .next t ∧
      ¬executes 2 s .timerEnable ∧ tclks s.turns < s₀.timer.cfg.toNat + tclks t.turns :=
  ⟨_, _, rfl, by decide, by decide, rfl,
    not_executes_succ (.event .tclk) rfl rfl (by simp)
      (not_executes_succ (.event .tclk) rfl rfl (by simp) (not_executes_zero _ _)), by decide⟩

/-- An armed timer with period 2, about to be clocked twice and dispatched. -/
def twoCounts : State :=
  state (uart 2 5 2) (timer 2 9 1 0 2 0) 1 0
    (List.replicate 2 (.hardware .tclk) ++ .dispatcher .tmr :: [.hardware .tclk])

theorem witness_ExpiryIsDeliveredAtThePeriod :
    twoCounts.timer.armed = true ∧ twoCounts.timer.ovf = false ∧ twoCounts.timer.cnt = 0 ∧
    twoCounts.timer.per ≠ 0 ∧ twoCounts.irq.gie = true ∧ twoCounts.irq.src = 0 ∧
    twoCounts.deliverable .txe = false ∧ twoCounts.deliverable .rx = false ∧
    twoCounts.turns = List.replicate twoCounts.timer.per.toNat (.hardware .tclk) ++
      .dispatcher .tmr :: [.hardware .tclk] := by decide

/-- The run of that witness: one `onTimerExpired` (spec/95_test_vectors.md T4, with a period of two counts). -/
theorem test_expiry_run : (after (run 3 twoCounts)).map (·.trace) = some [.callback .tmr] := by decide

theorem witness_TransmitEnableFiresAtOnce :
    let s := state (uart 0x02 5 2) idleTimer 0x01 0x00 [.engine 0x20000001, .engine 0x30000041]
    s.turns = .engine 0x20000001 :: .engine 0x30000041 :: [] ∧
    decode 0x20000001 = .instr (.serialSetEnabled false true) ∧ s.canDispatch = false ∧ s.uart.uInit = true ∧
    s.uart.txe = true ∧ s.uart.rxc = false ∧ s.timer.ovf = false ∧ s.irq.gie = true ∧ s.irq.src = 0 := by decide

theorem witness_DisableDiscardsTheCharacterInReception :
    ∃ t u, exec (.serialSetEnabled false true) (state (uart 0x07 5 2 0 0 true) idleTimer 0 0) = .next t ∧
      exec (.serialSetEnabled true true) t = .next u := ⟨_, _, rfl, rfl⟩

theorem witness_OverrunKeepsTheLaterByte :
    (uart 0x07 5 2).rxen = true ∧ (uart 0x07 5 2).uInit = true ∧ (uart 0x07 5 2).chsize = true ∧
    (uart 0x07 2 2).rxen = true ∧ (uart 0x07 2 2).uInit = true ∧ (uart 0x07 2 2).chsize = false := by decide

theorem witness_NothingIsDispatchedWhileDisabled :
    let s := state (uart 0x0A 5 2) idleTimer 0x00 0x00
      [.engine 0x30000041, .hardware .txDrain, .dispatcher .txe, .engine 0x80000001]
    (∃ t, run 3 s = .next t) ∧ s.irq.gie = false ∧ ¬executes 3 s (.irqGlobal true) :=
  ⟨⟨_, rfl⟩, by decide, not_executes_succ (.command (.serialWriteByte 0x41)) rfl rfl (by simp)
    (not_executes_succ (.event .txDrain) rfl rfl (by simp)
      (not_executes_succ .idle rfl rfl (by simp) (not_executes_zero _ _)))⟩

theorem witness_WrittenByteIsSentOnce :
    let s := state (uart 0x0A 5 2) idleTimer 0x00 0x00
    (∃ t, exec (.serialWriteByte 0x41) s = .next t) ∧ s.uart.txen = true := ⟨⟨_, rfl⟩, by decide⟩

end Sys2Proof.Tests
end

section
/-! SUPPORT. What each operation on the Timeout Timer does to each field of it (R120, R122, R123, R154, R174), and
that it keeps the timer's invariant. -/

namespace Sys2Proof.Machine

/-! ### `TIMER_INIT` (R120) -/

@[simp] theorem initTimer_run (p : Params) (k : Nat) (f : Half) (t : Timer) : (initTimer p k f t).run = false := by
  simp [Timer.run, initTimer]
@[simp] theorem initTimer_ovie (p : Params) (k : Nat) (f : Half) (t : Timer) : (initTimer p k f t).ovie = false := by
  simp [Timer.ovie, initTimer]
@[simp] theorem initTimer_ovf (p : Params) (k : Nat) (f : Half) (t : Timer) : (initTimer p k f t).ovf = false := by
  simp [Timer.ovf, initTimer]
@[simp] theorem initTimer_per (p : Params) (k : Nat) (f : Half) (t : Timer) : (initTimer p k f t).per = t.per := rfl
@[simp] theorem initTimer_cnt (p : Params) (k : Nat) (f : Half) (t : Timer) : (initTimer p k f t).cnt = t.cnt := rfl
@[simp] theorem initTimer_tInit (p : Params) (k : Nat) (f : Half) (t : Timer) : (initTimer p k f t).tInit = true := rfl

theorem Timer.Inv.initTimer {t : Timer} (p : Params) (k : Nat) (f : Half) (h : t.Inv) :
    (initTimer p k f t).Inv where
  ctrlZero := by simp [Machine.initTimer]
  intctrlZero := by simp [Machine.initTimer]
  intflagsZero := by simp [Machine.initTimer]
  unmaskedRuns := by simp
  zeroIsMasked := by simp
  countBelow := h.countBelow
  uninitStopped := by simp

/-! ### `TIMER_ENABLE` (R122) -/

/-- With a nonzero period the window starts afresh, unmasked. -/
theorem enableTimer_of_ne_zero (p : Params) {t : Timer} (h : t.cfg ≠ 0) :
    enableTimer p t =
      { t with per := t.cfg, cnt := 0, intctrl := putBit t.intctrl 0 true, ctrl := timerCtrlValue p.prescSel true } := by
  simp only [enableTimer, if_pos h, Timer.setOvie]

/-- With a zero period only `T_CTRL` is written. -/
theorem enableTimer_of_zero (p : Params) {t : Timer} (h : t.cfg = 0) :
    enableTimer p t = { t with ctrl := timerCtrlValue p.prescSel true } := by
  simp only [enableTimer, if_neg (not_not.mpr h)]

@[simp] theorem enableTimer_run (p : Params) (t : Timer) : (enableTimer p t).run = true :=
  (timerCtrlValue_bits p.prescSel true).1
@[simp] theorem enableTimer_cfg (p : Params) (t : Timer) : (enableTimer p t).cfg = t.cfg := by
  unfold enableTimer; split <;> rfl
@[simp] theorem enableTimer_intflags (p : Params) (t : Timer) : (enableTimer p t).intflags = t.intflags := by
  unfold enableTimer; split <;> rfl
@[simp] theorem enableTimer_ovf (p : Params) (t : Timer) : (enableTimer p t).ovf = t.ovf := by
  unfold enableTimer; split <;> rfl
@[simp] theorem enableTimer_tInit (p : Params) (t : Timer) : (enableTimer p t).tInit = t.tInit := by
  unfold enableTimer; split <;> rfl
@[simp] theorem enableTimer_per (p : Params) (t : Timer) :
    (enableTimer p t).per = if t.cfg ≠ 0 then t.cfg else t.per := by
  unfold enableTimer; split <;> rfl
@[simp] theorem enableTimer_cnt (p : Params) (t : Timer) :
    (enableTimer p t).cnt = if t.cfg ≠ 0 then 0 else t.cnt := by
  unfold enableTimer; split <;> rfl

@[simp] theorem enableTimer_ovie (p : Params) (t : Timer) :
    (enableTimer p t).ovie = (t.ovie || t.cfg != 0) := by
  by_cases h : t.cfg = 0
  · rw [enableTimer_of_zero p h, h]
    exact (Bool.or_false _).symm
  · have : (enableTimer p t).ovie = (t.setOvie true).ovie := by rw [enableTimer_of_ne_zero p h]; rfl
    rw [this, ovie_setOvie, bne_iff_ne.mpr h, Bool.or_true]

@[simp] theorem enableTimer_intctrl_reserved (p : Params) (t : Timer) :
    (enableTimer p t).intctrl.extractLsb' 1 7 = t.intctrl.extractLsb' 1 7 := by
  by_cases h : t.cfg = 0
  · rw [enableTimer_of_zero p h]
  · rw [enableTimer_of_ne_zero p h]
    exact extract_putBit_of_outside _ _ _ _ _ (by decide) (by decide)

/-- `TIMER_ENABLE` answers only once the timer is initialised, hence the premise. -/
theorem Timer.Inv.enableTimer {t : Timer} (p : Params) (h : t.Inv) (hinit : t.tInit = true) :
    (enableTimer p t).Inv where
  ctrlZero := (timerCtrlValue_bits p.prescSel true).2.2
  intctrlZero := (enableTimer_intctrl_reserved p t).trans h.intctrlZero
  intflagsZero := by rw [enableTimer_intflags]; exact h.intflagsZero
  unmaskedRuns := by simp
  zeroIsMasked hcfg := by
    rw [enableTimer_cfg] at hcfg
    simp [hcfg, h.zeroIsMasked hcfg]
  countBelow := by
    by_cases hcfg : t.cfg = 0
    · simpa [hcfg] using h.countBelow
    · right
      rw [enableTimer_cnt, enableTimer_per, if_pos hcfg, if_pos hcfg]
      exact Nat.pos_of_ne_zero fun h0 => hcfg (BitVec.eq_of_toNat_eq h0)
  uninitStopped := by simp [hinit]

/-! ### `TIMER_DISABLE` (R123) -/

@[simp] theorem disableTimer_per (t : Timer) : (disableTimer t).per = t.per := rfl
@[simp] theorem disableTimer_cnt (t : Timer) : (disableTimer t).cnt = t.cnt := rfl
@[simp] theorem disableTimer_tInit (t : Timer) : (disableTimer t).tInit = t.tInit := rfl
@[simp] theorem disableTimer_run (t : Timer) : (disableTimer t).run = false := by simp [disableTimer]
@[simp] theorem disableTimer_ovie (t : Timer) : (disableTimer t).ovie = false := by simp [disableTimer]
@[simp] theorem disableTimer_ovf (t : Timer) : (disableTimer t).ovf = false := by simp [disableTimer]

theorem Timer.Inv.disableTimer {t : Timer} (h : t.Inv) : (disableTimer t).Inv where
  ctrlZero := (extract_putBit_of_outside _ _ _ _ _ (by decide) (by decide)).trans h.ctrlZero
  intctrlZero := (extract_putBit_of_outside _ _ _ _ _ (by decide) (by decide)).trans h.intctrlZero
  intflagsZero := (extract_putBit_of_outside _ _ _ _ _ (by decide) (by decide)).trans h.intflagsZero
  unmaskedRuns := by simp
  zeroIsMasked := by simp
  countBelow := h.countBelow
  uninitStopped := by simp

/-! ### `TCLK` (R154) -/

@[simp] theorem countTimer_cfg (t : Timer) : (countTimer t).cfg = t.cfg := by
  unfold countTimer; split_ifs <;> rfl
@[simp] theorem countTimer_ctrl (t : Timer) : (countTimer t).ctrl = t.ctrl := by
  unfold countTimer; split_ifs <;> rfl
@[simp] theorem countTimer_run (t : Timer) : (countTimer t).run = t.run := by
  unfold countTimer; split_ifs <;> rfl
@[simp] theorem countTimer_intctrl (t : Timer) : (countTimer t).intctrl = t.intctrl := by
  unfold countTimer; split_ifs <;> rfl
@[simp] theorem countTimer_ovie (t : Timer) : (countTimer t).ovie = t.ovie := by
  unfold countTimer; split_ifs <;> rfl
@[simp] theorem countTimer_per (t : Timer) : (countTimer t).per = t.per := by
  unfold countTimer; split_ifs <;> rfl
@[simp] theorem countTimer_tInit (t : Timer) : (countTimer t).tInit = t.tInit := by
  unfold countTimer; split_ifs <;> rfl
@[simp] theorem countTimer_cnt (t : Timer) :
    (countTimer t).cnt = if t.run then (if t.cnt + 1 = t.per then 0 else t.cnt + 1) else t.cnt := by
  unfold countTimer; split_ifs <;> rfl

/-- The comparison is the one of R154: equality after an increment that wraps. -/
@[simp] theorem countTimer_ovf (t : Timer) : (countTimer t).ovf = (t.ovf || (t.run && t.cnt + 1 == t.per)) := by
  unfold countTimer
  split_ifs with hrun hper
  · rw [ovf_setOvf, hrun, beq_iff_eq.mpr hper, Bool.and_self, Bool.or_true]
  · rw [beq_eq_false_iff_ne.mpr hper, Bool.and_false, Bool.or_false]; rfl
  · rw [Bool.eq_false_of_not_eq_true hrun, Bool.false_and, Bool.or_false]

@[simp] theorem countTimer_intflags_reserved (t : Timer) :
    (countTimer t).intflags.extractLsb' 1 7 = t.intflags.extractLsb' 1 7 := by
  unfold countTimer
  split_ifs
  · exact extract_putBit_of_outside _ _ _ _ _ (by decide) (by decide)
  · rfl
  · rfl

/-- `TCLK`'s comparison said of numbers. -/
theorem increment_eq_iff (c p : Half) : c + 1 = p ↔ (c.toNat + 1) % 65536 = p.toNat := by
  rw [← BitVec.toNat_inj]
  simp

/-- A count below the period stays below it or wraps to 0. -/
theorem countTimer_countBelow {t : Timer} (h : t.per = 0 ∨ t.cnt.toNat < t.per.toNat) :
    (countTimer t).per = 0 ∨ (countTimer t).cnt.toNat < (countTimer t).per.toNat := by
  rw [countTimer_per, countTimer_cnt]
  refine h.imp_right fun hlt => ?_
  split_ifs with hrun hper
  · simpa using Nat.zero_lt_of_lt hlt
  · rw [increment_eq_iff] at hper
    have hmod : (t.cnt + 1).toNat = (t.cnt.toNat + 1) % 65536 := by simp
    have hmax := t.per.isLt
    omega
  · exact hlt

theorem Timer.Inv.countTimer {t : Timer} (h : t.Inv) : (countTimer t).Inv where
  ctrlZero := by rw [countTimer_ctrl]; exact h.ctrlZero
  intctrlZero := by rw [countTimer_intctrl]; exact h.intctrlZero
  intflagsZero := (countTimer_intflags_reserved t).trans h.intflagsZero
  unmaskedRuns := by simpa using h.unmaskedRuns
  zeroIsMasked := by simpa using h.zeroIsMasked
  countBelow := countTimer_countBelow h.countBelow
  uninitStopped hinit := by
    rw [countTimer_tInit] at hinit
    obtain ⟨hrun, hovf⟩ := h.uninitStopped hinit
    simp [hrun, hovf]

/-! ### `DISPATCH` (R174) -/

@[simp] theorem acknowledge_cfg (src : Source) (t : Timer) : (acknowledge src t).cfg = t.cfg := by cases src <;> rfl
@[simp] theorem acknowledge_run (src : Source) (t : Timer) : (acknowledge src t).run = t.run := by cases src <;> rfl
@[simp] theorem acknowledge_per (src : Source) (t : Timer) : (acknowledge src t).per = t.per := by cases src <;> rfl
@[simp] theorem acknowledge_cnt (src : Source) (t : Timer) : (acknowledge src t).cnt = t.cnt := by cases src <;> rfl
@[simp] theorem acknowledge_tInit (src : Source) (t : Timer) : (acknowledge src t).tInit = t.tInit := by
  cases src <;> rfl
@[simp] theorem acknowledge_ovf (src : Source) (t : Timer) : (acknowledge src t).ovf = (t.ovf && src != .tmr) :=
  (acknowledge_spec src t).1
@[simp] theorem acknowledge_ovie (src : Source) (t : Timer) : (acknowledge src t).ovie = (t.ovie && src != .tmr) :=
  (acknowledge_spec src t).2.1

/-- Only `TMR` is acknowledged in the timer, and then it is masked with nothing pending. -/
theorem Timer.Inv.acknowledge {t : Timer} (src : Source) (h : t.Inv) : (acknowledge src t).Inv := by
  cases src with
  | txe => exact h
  | rx => exact h
  | tmr =>
    obtain ⟨-, -, hintctrl, hintflags, -⟩ := acknowledge_spec .tmr t
    exact
      { ctrlZero := h.ctrlZero
        intctrlZero := hintctrl.trans h.intctrlZero
        intflagsZero := hintflags.trans h.intflagsZero
        unmaskedRuns := by simp
        zeroIsMasked := by simp
        countBelow := h.countBelow
        uninitStopped := fun hinit => ⟨(h.uninitStopped hinit).1, by simp⟩ }

end Sys2Proof.Machine
end

section
/-! SUPPORT. What each operation on the Serial Transport and the interrupt controller does to the fields the rules of
spec/10_state.md speak of, and that it keeps its component's invariant. -/

namespace Sys2Proof.Machine

/-! ### The flags do not depend on the data registers and `RX_BUSY` -/

@[simp] theorem Uart.rxc_with_txdata (u : Uart) (b : Byte) : ({ u with txdata := b } : Uart).rxc = u.rxc := rfl
@[simp] theorem Uart.rxc_with_rxBusy (u : Uart) (b : Bool) : ({ u with rxBusy := b } : Uart).rxc = u.rxc := rfl
@[simp] theorem Uart.txe_with_rxdata_rxBusy (u : Uart) (d : Byte) (b : Bool) :
    ({ u with rxdata := d, rxBusy := b } : Uart).txe = u.txe := rfl

/-- Writing a flag keeps the reserved bits of `U_STATUS`. -/
theorem status_reserved_putBit (r : Byte) (k : Nat) (b : Bool) (hk : k < 2) :
    (putBit r k b).extractLsb' 2 6 = r.extractLsb' 2 6 :=
  extract_putBit_of_outside r k b 2 6 (by decide) (.inl hk)

/-! ### The set-enabled step and `SERIAL_INIT` (R100, R102) -/

@[simp] theorem setEnabled_fields (p : Params) (rx tx : Bool) (u : Uart) :
    (setEnabled p rx tx u).ctrl = ctrlValue rx true rx tx ∧
    (setEnabled p rx tx u).rxBusy = (u.rxBusy && rx) ∧
    (setEnabled p rx tx u).rxc = (u.rxc && (rx || !p.rxFlushOnDisable)) ∧
    (setEnabled p rx tx u).txe = u.txe ∧
    (setEnabled p rx tx u).status.extractLsb' 2 6 = u.status.extractLsb' 2 6 ∧
    (setEnabled p rx tx u).txdata = u.txdata ∧ (setEnabled p rx tx u).rxdata = u.rxdata ∧
    (setEnabled p rx tx u).uInit = u.uInit := by
  obtain ⟨hctrl, hbusy, -, -, -, htx, hrx, hinit⟩ := setEnabled_spec p rx tx u
  obtain ⟨hrxc, htxe, hstatus⟩ := setEnabled_flags p rx tx u
  exact ⟨hctrl, hbusy, hrxc, htxe, hstatus, htx, hrx, hinit⟩

@[simp] theorem initUart_fields (p : Params) (par : Parity) (dbits baud : Nat) (free : Half) (u : Uart) :
    (initUart p par dbits baud free u).ctrl = 0x02 ∧
    (initUart p par dbits baud free u).rxBusy = false ∧
    (initUart p par dbits baud free u).rxc = (u.rxc && !p.rxFlushOnDisable) ∧
    (initUart p par dbits baud free u).txe = u.txe ∧
    (initUart p par dbits baud free u).status.extractLsb' 2 6 = u.status.extractLsb' 2 6 ∧
    (initUart p par dbits baud free u).txdata = u.txdata ∧
    (initUart p par dbits baud free u).rxdata = u.rxdata ∧
    (initUart p par dbits baud free u).uInit = true := by
  obtain ⟨hctrl, hbusy, hrxc, htxe, hstatus, htx, hrx, hinit, -⟩ := initUart_spec p par dbits baud free u
  exact ⟨hctrl, hbusy, hrxc, htxe, hstatus, htx, hrx, hinit⟩

/-- No `PAR` operand programs the mode 3 (R29 (d)). -/
theorem programPmode_ne_three (par : Parity) {u : Uart} (h : u.pmode ≠ 3) : (u.programPmode par).pmode ≠ 3 := by
  cases par with
  | none => simp [Uart.programPmode]
  | even => simp [Uart.programPmode]
  | odd => simp [Uart.programPmode]
  | unmatched => exact h

theorem Uart.Inv.setEnabled {u : Uart} (p : Params) (rx tx : Bool) (h : u.Inv) : (setEnabled p rx tx u).Inv := by
  obtain ⟨hctrl, hbusy, -, -, hframe, -, -, hinit⟩ := setEnabled_spec p rx tx u
  obtain ⟨hrxen, htxen, hrxie, -, hzero⟩ := ctrlValue_bits rx true rx tx
  rw [← hctrl] at hrxen htxen hrxie hzero
  exact
    { ctrlZero := hzero
      frameZero := by rw [hframe]; exact h.frameZero
      statusZero := (setEnabled_flags p rx tx u).2.2.trans h.statusZero
      txenOnceInit := fun _ => htxen
      rxenIsRxie := hrxen.trans hrxie.symm
      busyIsEnabled := by rw [hbusy, Bool.and_eq_true]; exact fun hb => hrxen.trans hb.2
      pmodeLegal := by rw [Uart.pmode, hframe]; exact h.pmodeLegal
      waitingIsInit := by rw [(setEnabled_flags p rx tx u).2.1, hinit]; exact h.waitingIsInit }

theorem Uart.Inv.initUart {u : Uart} (p : Params) (par : Parity) (dbits baud : Nat) (free : Half) (h : u.Inv) :
    (initUart p par dbits baud free u).Inv := by
  obtain ⟨hctrl, -, -, -, hstatus, -, -, hinit, hframe, hpmode, -⟩ := initUart_spec p par dbits baud free u
  exact
    { ctrlZero := by rw [hctrl]; rfl
      frameZero := hframe.trans h.frameZero
      statusZero := hstatus.trans h.statusZero
      txenOnceInit := fun _ => by rw [Uart.txen, hctrl]; rfl
      rxenIsRxie := by rw [Uart.rxen, Uart.rxie, hctrl]; rfl
      busyIsEnabled := by simp
      pmodeLegal := by rw [hpmode]; exact programPmode_ne_three par h.pmodeLegal
      waitingIsInit := fun _ => hinit }

/-! ### The flags of `U_STATUS` (R103, R104, R151, R152) -/

theorem Uart.Inv.setRxc {u : Uart} (b : Bool) (h : u.Inv) : (u.setRxc b).Inv :=
  { h with
    statusZero := (status_reserved_putBit _ _ _ (by decide)).trans h.statusZero
    waitingIsInit := by rw [txe_setRxc]; exact h.waitingIsInit }

/-- `TXE` may be cleared once `U_INIT` is 1. -/
theorem Uart.Inv.setTxe {u : Uart} (b : Bool) (h : u.Inv) (hinit : b = false → u.uInit = true) :
    (u.setTxe b).Inv :=
  { h with
    statusZero := (status_reserved_putBit _ _ _ (by decide)).trans h.statusZero
    waitingIsInit := by rw [txe_setTxe]; exact hinit }

theorem Uart.Inv.with_txdata {u : Uart} (b : Byte) (h : u.Inv) : ({ u with txdata := b } : Uart).Inv := { h with }

/-- A character begins only while `RXEN` is 1 (R150). -/
theorem Uart.Inv.with_rxBusy {u : Uart} (h : u.Inv) (hrxen : u.rxen = true) :
    ({ u with rxBusy := true } : Uart).Inv :=
  { h with busyIsEnabled := fun _ => hrxen }

theorem Uart.Inv.with_rxdata {u : Uart} (d : Byte) (h : u.Inv) :
    ({ u with rxBusy := false, rxdata := d } : Uart).Inv :=
  { h with busyIsEnabled := by simp }

/-! ### The interrupt controller (R140, R141, R174) -/

theorem Irq.Inv.setGie {q : Irq} (b : Bool) (h : q.Inv) : (q.setGie b).Inv where
  ctrlZero := (extract_putBit_of_outside _ _ _ _ _ (by decide) (by decide)).trans h.ctrlZero
  svcZero := h.svcZero

theorem Irq.Inv.setSrc {q : Irq} (n : BitVec 2) (h : q.Inv) : (q.setSrc n).Inv where
  ctrlZero := h.ctrlZero
  svcZero := (extract_putField_of_outside _ _ _ _ _ (by decide) (by decide)).trans h.svcZero

end Sys2Proof.Machine
end

section
/-! The machine's invariant: every step keeps it, since each operation keeps its component's; the reset state meets
it; so every state reached from reset does. The cases of a `split` are those of the effect law just rewritten with, in
its order. -/

namespace Sys2Proof.Machine

/-- A step that comes to the command `i` executes it. -/
theorem step_command {s t : State} {i : Instr} (h : step s = .next t) (ha : s.action Config.params = .command i) :
    exec i s.afterTurn = .next t := by
  rw [step, ha] at h
  exact h

/-- A write is answered only once the transport is initialised and its register is free (R103). -/
theorem step_writeByte_guard {s t : State} {b : Byte} (h : step s = .next t)
    (ha : s.action Config.params = .command (.serialWriteByte b)) : s.uart.uInit = true ∧ s.uart.txe = true := by
  obtain ⟨hinit, htxe, -⟩ := exec_serialWriteByte_next.mp (step_command h ha)
  rw [State.afterTurn_uart] at hinit htxe
  exact ⟨hinit, htxe⟩

/-- An enable is answered only once the timer is initialised (R122). -/
theorem step_timerEnable_guard {s t : State} (h : step s = .next t)
    (ha : s.action Config.params = .command .timerEnable) : s.timer.tInit = true := by
  obtain ⟨hinit, -⟩ := exec_timerEnable_next.mp (step_command h ha)
  rwa [State.afterTurn_timer] at hinit

theorem step_keeps_uart_inv {s t : State} (hs : s.uart.Inv) (h : step s = .next t) : t.uart.Inv := by
  rw [step_uart h]
  split
  case h_1 => exact hs.initUart _ _ _ _ _
  case h_2 => exact hs.setEnabled _ _ _
  case h_3 b ha => exact (hs.with_txdata b).setTxe _ fun _ => (step_writeByte_guard h ha).1
  case h_4 => split; exacts [hs.setRxc _, hs]
  case h_5 =>
    split
    case isTrue hstart => exact hs.with_rxBusy (Bool.and_eq_true_iff.mp hstart).1
    case isFalse => exact hs
  case h_6 => split; exacts [(hs.with_rxdata _).setRxc _, hs]
  case h_7 => split; exacts [hs.setTxe _ (by simp), hs]
  case h_8 => exact hs

theorem step_keeps_timer_inv {s t : State} (hs : s.timer.Inv) (h : step s = .next t) : t.timer.Inv := by
  rw [step_timer h]
  split
  case h_1 => exact hs.initTimer _ _ _
  case h_2 ha => exact hs.enableTimer _ (step_timerEnable_guard h ha)
  case h_3 => exact hs.disableTimer
  case h_4 => exact hs.countTimer
  case h_5 => exact hs.acknowledge _
  case h_6 => exact hs

theorem step_keeps_irq_inv {s t : State} (hs : s.irq.Inv) (h : step s = .next t) : t.irq.Inv := by
  rw [step_irq h]
  split
  case h_1 => exact hs.setGie _
  case h_2 => exact hs.setSrc _
  case h_3 => exact hs.setSrc _
  case h_4 => exact hs

theorem step_keeps_rising_log {s t : State} (hs : risingCodes s.cvLog = true) (h : step s = .next t) :
    risingCodes t.cvLog = true := by
  rw [step_log h]
  split
  case h_1 => split; exacts [hs, risingCodes_insertCode _ _ hs]
  case h_2 => exact hs

theorem step_keeps_inv {s t : State} (hs : s.Inv) (h : step s = .next t) : t.Inv where
  uart := step_keeps_uart_inv hs.uart h
  timer := step_keeps_timer_inv hs.timer h
  irq := step_keeps_irq_inv hs.irq h
  log := step_keeps_rising_log hs.log h

/-- The reset values meet every clause: each is a fact about the constants of R44. -/
theorem reset_inv : State.reset.Inv where
  uart :=
    { ctrlZero := by decide
      frameZero := by decide
      statusZero := by decide
      txenOnceInit := by decide
      rxenIsRxie := by decide
      busyIsEnabled := by decide
      pmodeLegal := by decide
      waitingIsInit := by decide }
  timer :=
    { ctrlZero := by decide
      intctrlZero := by decide
      intflagsZero := by decide
      unmaskedRuns := by decide
      zeroIsMasked := by decide
      countBelow := by decide
      uninitStopped := by decide }
  irq := ⟨by decide, by decide⟩
  log := rfl

/-- The turns are no part of the invariant. -/
theorem State.Inv.with_turns {s : State} (h : s.Inv) (turns : List Turn) : ({ s with turns := turns } : State).Inv :=
  { h with }

/-- Every state reached from reset meets the invariant, whatever the agents do. -/
theorem reachable_inv {turns : List Turn} {k : Nat} {t : State}
    (h : run k { State.reset with turns := turns } = .next t) : t.Inv :=
  run_keeps (fun _ _ => step_keeps_inv) k _ t (reset_inv.with_turns turns) h

/-- Settles O47: each component's law says what the step did to it, and every operation keeps its invariant. -/
theorem stepKeepsInvariant : Obligations.StepKeepsInvariant :=
  fun _ _ => step_keeps_inv

/-- Settles O48. -/
theorem resetMeetsInvariant : Obligations.ResetMeetsInvariant := reset_inv

/-- Settles O49: R29's invariants are clauses of the machine's, which every run from reset keeps. -/
theorem reachableUartInvariants : Obligations.ReachableUartInvariants := by
  intro turns k t h
  have hinv := (reachable_inv h).uart
  exact ⟨hinv.txenOnceInit, hinv.rxenIsRxie, hinv.busyIsEnabled, hinv.pmodeLegal⟩

/-- Settles O9: each value is a field of the reset state; an enable bit is a bit of `U_CTRL` or `T_INTCTRL`, both 0. -/
theorem resetValues : Obligations.ResetValues := by
  refine ⟨rfl, rfl, rfl, rfl, rfl, rfl, rfl, rfl, rfl, rfl, rfl, rfl, rfl, rfl, rfl, rfl, rfl, rfl, ?_⟩
  intro src
  cases src <;> rfl

end Sys2Proof.Machine
end

section
/-! SUPPORT. The rules of spec/10_state.md, one field each: what a step leaves in the field, by the action it comes
to. Each follows from the effect law of its component and the field's law for each operation. -/

namespace Sys2Proof.Machine

/-! ### The Timeout Timer -/

theorem step_ovie {s t : State} (h : step s = .next t) :
    t.timer.ovie =
      match s.action Config.params with
      | .command .timerEnable => s.timer.ovie || s.timer.cfg != 0
      | .command .timerDisable => false
      | .command (.timerInit _) => false
      | .dispatch .tmr => false
      | _ => s.timer.ovie := by
  rw [step_timer h]
  cases s.action Config.params with
  | idle => rfl
  | reserved => rfl
  | command i => cases i <;> simp
  | event e => cases e <;> simp
  | dispatch src => cases src <;> simp

theorem step_ovf {s t : State} (h : step s = .next t) :
    t.timer.ovf =
      match s.action Config.params with
      | .event .tclk => s.timer.ovf || (s.timer.run && (s.timer.cnt.toNat + 1) % 65536 == s.timer.per.toNat)
      | .command .timerDisable => false
      | .command (.timerInit _) => false
      | .dispatch .tmr => false
      | _ => s.timer.ovf := by
  have hcompare : (s.timer.cnt + 1 == s.timer.per) = ((s.timer.cnt.toNat + 1) % 65536 == s.timer.per.toNat) :=
    Bool.eq_iff_iff.mpr (by simpa only [beq_iff_eq] using increment_eq_iff _ _)
  rw [step_timer h]
  cases s.action Config.params with
  | idle => rfl
  | reserved => rfl
  | command i => cases i <;> simp
  | event e =>
    cases e with
    | tclk => rw [countTimer_ovf, hcompare]
    | _ => rfl
  | dispatch src => cases src <;> simp

theorem step_per {s t : State} (h : step s = .next t) :
    t.timer.per =
      match s.action Config.params with
      | .command .timerEnable => if s.timer.cfg ≠ 0 then s.timer.cfg else s.timer.per
      | _ => s.timer.per := by
  rw [step_timer h]
  cases s.action Config.params with
  | idle => rfl
  | reserved => rfl
  | command i => cases i <;> simp
  | event e => cases e <;> simp
  | dispatch src => simp

theorem step_cnt {s t : State} (h : step s = .next t) :
    t.timer.cnt =
      match s.action Config.params with
      | .command .timerEnable => if s.timer.cfg ≠ 0 then 0 else s.timer.cnt
      | .event .tclk =>
          if s.timer.run then (if s.timer.cnt + 1 = s.timer.per then 0 else s.timer.cnt + 1) else s.timer.cnt
      | _ => s.timer.cnt := by
  rw [step_timer h]
  cases s.action Config.params with
  | idle => rfl
  | reserved => rfl
  | command i => cases i <;> simp
  | event e => cases e <;> simp
  | dispatch src => simp

/-- `T_CFG` is `TIMER_INIT`'s alone (R38). -/
theorem step_cfg {s t : State} (h : step s = .next t)
    (hinit : ∀ ticks, s.action Config.params ≠ .command (.timerInit ticks)) : t.timer.cfg = s.timer.cfg := by
  rw [step_timer h]
  split
  case h_1 k ha => exact absurd ha (hinit k)
  case h_2 => exact enableTimer_cfg _ _
  case h_3 => rfl
  case h_4 => exact countTimer_cfg _
  case h_5 => exact acknowledge_cfg _ _
  case h_6 => rfl

theorem step_tInit {s t : State} (h : step s = .next t) :
    t.timer.tInit = true ↔
      s.timer.tInit = true ∨ ∃ ticks, s.action Config.params = .command (.timerInit ticks) := by
  rw [step_timer h]
  cases s.action Config.params with
  | idle => simp
  | reserved => simp
  | command i => cases i <;> simp
  | event e => cases e <;> simp
  | dispatch src => simp

/-! ### The Serial Transport -/

theorem step_uInit {s t : State} (h : step s = .next t) :
    t.uart.uInit = true ↔
      s.uart.uInit = true ∨
        ∃ par dbits port baud, s.action Config.params = .command (.serialInit par dbits port baud) := by
  rw [step_uart h]
  cases s.action Config.params with
  | idle => simp
  | reserved => simp
  | command i => cases i <;> simp [apply_ite Uart.uInit]
  | event e => cases e <;> simp [apply_ite Uart.uInit]
  | dispatch src => simp

theorem step_rxc {s t : State} (h : step s = .next t) :
    t.uart.rxc =
      match s.action Config.params with
      | .event (.rxComplete _) => s.uart.rxc || s.uart.rxBusy
      | .command .serialReadByte => false
      | .command (.serialSetEnabled false _) => s.uart.rxc && !Config.params.rxFlushOnDisable
      | .command (.serialInit _ _ _ _) => s.uart.rxc && !Config.params.rxFlushOnDisable
      | _ => s.uart.rxc := by
  rw [step_uart h]
  cases s.action Config.params with
  | idle => rfl
  | reserved => rfl
  | command i =>
    cases i with
    | serialSetEnabled rx tx => cases rx <;> simp
    | serialReadByte => cases hrxc : s.uart.rxc <;> simp [hrxc]
    | _ => simp
  | event e =>
    cases e with
    | rxComplete b => cases s.uart.rxBusy <;> simp
    | _ => simp [apply_ite Uart.rxc]
  | dispatch src => rfl

theorem step_txe {s t : State} (h : step s = .next t) :
    t.uart.txe =
      match s.action Config.params with
      | .command (.serialWriteByte _) => false
      | .event .txDrain => s.uart.txe || s.uart.txen
      | _ => s.uart.txe := by
  rw [step_uart h]
  cases s.action Config.params with
  | idle => rfl
  | reserved => rfl
  | command i => cases i <;> simp [apply_ite Uart.txe]
  | event e =>
    cases e with
    | txDrain => cases htxe : s.uart.txe <;> cases s.uart.txen <;> simp [htxe]
    | _ => simp [apply_ite Uart.txe]
  | dispatch src => rfl

theorem step_status_reserved {s t : State} (h : step s = .next t) :
    t.uart.status.extractLsb' 2 6 = s.uart.status.extractLsb' 2 6 := by
  rw [step_uart h]
  split
  case h_1 => simp
  case h_2 => simp
  case h_3 => exact status_reserved_putBit _ _ _ (by decide)
  case h_4 => split; exacts [status_reserved_putBit _ _ _ (by decide), rfl]
  case h_5 => split <;> rfl
  case h_6 => split; exacts [status_reserved_putBit _ _ _ (by decide), rfl]
  case h_7 => split; exacts [status_reserved_putBit _ _ _ (by decide), rfl]
  case h_8 => rfl

/-- The four values of R102 as a sum of the enables' weights. -/
theorem ctrlValue_eq_sum (rx tx : Bool) :
    ctrlValue rx true rx tx = BitVec.ofNat 8 (2 + (if rx then 5 else 0) + (if tx then 8 else 0)) := by
  cases rx <;> cases tx <;> rfl

theorem step_ctrl {s t : State} (h : step s = .next t) :
    t.uart.ctrl =
      match s.action Config.params with
      | .command (.serialInit _ _ _ _) => 0x02
      | .command (.serialSetEnabled rx tx) =>
          BitVec.ofNat 8 (2 + (if rx then 5 else 0) + (if tx then 8 else 0))
      | _ => s.uart.ctrl := by
  rw [step_uart h]
  cases s.action Config.params with
  | idle => rfl
  | reserved => rfl
  | command i =>
    cases i with
    | serialSetEnabled rx tx => simp [← ctrlValue_eq_sum]
    | _ => simp [apply_ite Uart.ctrl]
  | event e => cases e <;> simp [apply_ite Uart.ctrl]
  | dispatch src => rfl

theorem step_txdata {s t : State} (h : step s = .next t) :
    t.uart.txdata =
      match s.action Config.params with
      | .command (.serialWriteByte b) => b
      | _ => s.uart.txdata := by
  rw [step_uart h]
  cases s.action Config.params with
  | idle => rfl
  | reserved => rfl
  | command i => cases i <;> simp [apply_ite Uart.txdata]
  | event e => cases e <;> simp [apply_ite Uart.txdata]
  | dispatch src => rfl

theorem step_rxdata {s t : State} (h : step s = .next t) :
    t.uart.rxdata.toNat =
      match s.action Config.params with
      | .event (.rxComplete b) =>
          if s.uart.rxBusy then (if s.uart.chsize then b.toNat else b.toNat % 128) else s.uart.rxdata.toNat
      | _ => s.uart.rxdata.toNat := by
  rw [step_uart h]
  cases s.action Config.params with
  | idle => rfl
  | reserved => rfl
  | command i => cases i <;> simp [apply_ite Uart.rxdata]
  | event e =>
    cases e with
    | rxComplete b => cases s.uart.rxBusy <;> cases s.uart.chsize <;> simp [sevenBits_toNat]
    | _ => simp [apply_ite Uart.rxdata]
  | dispatch src => rfl

theorem step_rxBusy {s t : State} (h : step s = .next t) :
    t.uart.rxBusy =
      match s.action Config.params with
      | .event .rxStart => s.uart.rxBusy || s.uart.rxen
      | .event (.rxComplete _) => false
      | .command (.serialInit _ _ _ _) => false
      | .command (.serialSetEnabled rx _) => s.uart.rxBusy && rx
      | _ => s.uart.rxBusy := by
  rw [step_uart h]
  cases s.action Config.params with
  | idle => rfl
  | reserved => rfl
  | command i => cases i <;> simp [apply_ite Uart.rxBusy]
  | event e =>
    cases e with
    | rxStart => cases hbusy : s.uart.rxBusy <;> cases s.uart.rxen <;> simp [hbusy]
    | rxComplete b => cases hbusy : s.uart.rxBusy <;> simp [hbusy]
    | _ => simp [apply_ite Uart.rxBusy]
  | dispatch src => rfl

/-! ### The interrupt controller -/

theorem step_gie {s t : State} (h : step s = .next t) :
    t.irq.gie =
      match s.action Config.params with
      | .command (.irqGlobal en) => en
      | _ => s.irq.gie := by
  rw [step_irq h]
  cases s.action Config.params with
  | idle => rfl
  | reserved => rfl
  | command i => cases i <;> simp
  | event e => rfl
  | dispatch src => rfl

theorem step_src {s t : State} (h : step s = .next t) :
    t.irq.src =
      match s.action Config.params with
      | .dispatch .txe => 1
      | .dispatch .rx => 2
      | .dispatch .tmr => 3
      | .command .cbRet => 0
      | _ => s.irq.src := by
  rw [step_irq h]
  cases s.action Config.params with
  | idle => rfl
  | reserved => rfl
  | command i => cases i <;> simp
  | event e => rfl
  | dispatch src => cases src <;> simp [Source.number]

/-- Nothing is dispatched while `GIE` is 0 or a callback runs (R39, R178). -/
theorem action_ne_dispatch {s : State} {p : Params} (src : Source) (h : s.irq.gie = false ∨ s.irq.src ≠ 0) :
    s.action p ≠ .dispatch src := by
  intro ha
  obtain ⟨hcan, -⟩ := State.dispatchable_imp (State.action_dispatch ha)
  have hcannot : s.canDispatch = false := h.elim s.canDispatch_of_disabled s.canDispatch_of_callback
  rw [hcannot] at hcan
  cases hcan

/-- While a callback runs the engine's word is accepted at once (R176). -/
theorem action_command_in_callback {s : State} {p : Params} {w : Word} {rest : List Turn} {i : Instr}
    (hturns : s.turns = .engine w :: rest) (hdecode : decode w = .instr i) (hsrc : s.irq.src ≠ 0) :
    s.action p = .command i := by
  simp [State.action, hturns, hdecode, s.canDispatch_of_callback hsrc]

/-- `CB_RET` is refused in main context alone (R141). -/
theorem exec_cbRet_refused_iff (s : State) : exec .cbRet s = .refused .returnInMain ↔ s.irq.src = 0 := by
  by_cases h : s.irq.src = 0
  · simp [exec, execCbRet, State.inMain, h]
  · rw [exec_cbRet_next.mpr ⟨h, rfl⟩]
    exact ⟨nofun, fun hsrc => absurd hsrc h⟩

/-! ### `CV_LOG` -/

theorem mem_step_cvLog {s t : State} (h : step s = .next t) (c : CvCode) :
    c ∈ t.cvLog ↔ c ∈ s.cvLog ∨
      (c = .cv3 ∧ s.action Config.params = .command .serialReadByte ∧ s.uart.rxc = false) := by
  rw [step_log h]
  split
  case h_1 ha =>
    cases hrxc : s.uart.rxc with
    | false => simp [ha, or_comm]
    | true => simp
  case h_2 hother => exact ⟨.inl, fun hc => hc.elim id fun hread => absurd hread.2.1 hother⟩

end Sys2Proof.Machine
end

section
/-! SUPPORT. The output trace (R41, R92): what each action appends to it, and that nothing reads it. -/

namespace Sys2Proof.Machine

/-! ### A state, and an outcome, with another trace -/

/-- The state with another trace. -/
def State.withTrace (s : State) (tr : List Output) : State := { s with trace := tr }

/-- The outcome with another trace in its next state. -/
def outcomeWithTrace (tr : List Output) :
    Host.Outcome State Fault Refusal → Host.Outcome State Fault Refusal
  | .next t => .next (t.withTrace tr)
  | .fault f => .fault f
  | .refused r => .refused r

@[simp] theorem State.withTrace_uart (s : State) (tr : List Output) : (s.withTrace tr).uart = s.uart := rfl

@[simp] theorem outcomeWithTrace_next (t : State) (tr : List Output) :
    outcomeWithTrace tr (.next t) = .next (t.withTrace tr) := rfl

/-- What a turn comes to does not depend on the trace. -/
@[simp] theorem State.withTrace_action (s : State) (p : Params) (tr : List Output) :
    (s.withTrace tr).action p = s.action p := rfl

@[simp] theorem State.withTrace_afterTurn (s : State) (tr : List Output) :
    (s.withTrace tr).afterTurn = s.afterTurn.withTrace tr := by
  have hholds : (s.withTrace tr).holds = s.holds := rfl
  unfold State.afterTurn
  rw [hholds]
  split <;> rfl

/-! ### What is appended -/

/-- What a command emits in its step (R90): one response for each of three commands, nothing for the others. -/
def commandOutputs (s : State) : Instr → List Output
  | .serialInit _ _ _ _ => [.response 0x01]
  | .timerInit _ => [.response 0x01]
  | .serialReadByte => [.response (if s.uart.rxc then s.uart.rxdata else Config.freeByte s.freeCount)]
  | _ => []

/-- What a hardware event emits (R92): a character, when `TX_DRAIN` is enabled. -/
def eventOutputs (s : State) : HwEvent → List Output
  | .txDrain =>
      if !s.uart.txe && s.uart.txen then
        [.line (lineData s.uart) (parityBit s.uart.pmode (lineData s.uart) (Config.freeParity s.freeCount))]
      else []
  | _ => []

/-- What an action emits; `DISPATCH` emits its callback (R91). -/
def actionOutputs (s : State) : Action → List Output
  | .command i => commandOutputs s i
  | .event e => eventOutputs s e
  | .dispatch src => [.callback src]
  | _ => []

/-- A command appends its outputs to whatever trace it finds, and does not read it. -/
theorem exec_withTrace (i : Instr) (s : State) (tr : List Output) :
    exec i (s.withTrace tr) = outcomeWithTrace (tr ++ commandOutputs s i) (exec i s) := by
  cases i with
  | serialInit par dbits port baud => rfl
  | serialSetEnabled rx tx =>
    simp only [exec, execSerialSetEnabled, serialSetEnabled, commandOutputs, List.append_nil,
      apply_ite (outcomeWithTrace tr)]
    rfl
  | serialWriteByte b =>
    simp only [exec, execSerialWriteByte, commandOutputs, List.append_nil, apply_ite (outcomeWithTrace tr)]
    rfl
  | serialReadByte =>
    by_cases hrxc : s.uart.rxc = true
    · simp only [exec, execSerialReadByte, commandOutputs, State.withTrace_uart, hrxc, if_true,
        apply_ite (outcomeWithTrace _)]
      rfl
    · simp only [exec, execSerialReadByte, commandOutputs, State.withTrace_uart, hrxc,
        apply_ite (outcomeWithTrace _)]
      rfl
  | timerInit ticks => rfl
  | timerEnable =>
    simp only [exec, execTimerEnable, timerEnable, commandOutputs, List.append_nil, apply_ite (outcomeWithTrace tr)]
    rfl
  | timerDisable =>
    simp only [exec, execTimerDisable, commandOutputs, List.append_nil, apply_ite (outcomeWithTrace tr)]
    rfl
  | irqGlobal en =>
    simp only [commandOutputs, List.append_nil]
    rfl
  | cbRet =>
    simp only [exec, execCbRet, commandOutputs, List.append_nil, apply_ite (outcomeWithTrace tr)]
    rfl

/-- A hardware event appends its outputs to whatever trace it finds, and does not read it. -/
theorem hwEvent_withTrace (e : HwEvent) (s : State) (tr : List Output) :
    hwEvent e (s.withTrace tr) = (hwEvent e s).withTrace (tr ++ eventOutputs s e) := by
  cases e with
  | rxStart =>
    simp only [hwEvent, rxStart, eventOutputs, List.append_nil, apply_ite (State.withTrace · tr)]
    rfl
  | rxComplete b =>
    simp only [hwEvent, rxComplete, eventOutputs, List.append_nil, apply_ite (State.withTrace · tr)]
    rfl
  | txDrain =>
    by_cases hdrain : (!s.uart.txe && s.uart.txen) = true
    · simp only [hwEvent, txDrain, eventOutputs, State.withTrace_uart, hdrain, if_true]
      rfl
    · simp only [hwEvent, txDrain, eventOutputs, State.withTrace_uart, hdrain, Bool.false_eq_true, if_false, List.append_nil]
  | tclk =>
    simp only [eventOutputs, List.append_nil]
    rfl

/-- A step appends its action's outputs to whatever trace it finds, and does not read it. -/
theorem step_withTrace (s : State) (tr : List Output) :
    step (s.withTrace tr) =
      outcomeWithTrace (tr ++ actionOutputs s.afterTurn (s.action Config.params)) (step s) := by
  simp only [step, State.withTrace_action, State.withTrace_afterTurn]
  cases s.action Config.params with
  | idle =>
    simp only [actionOutputs, List.append_nil]
    rfl
  | reserved => rfl
  | command i => exact exec_withTrace i s.afterTurn tr
  | event e => exact congrArg Host.Outcome.next (hwEvent_withTrace e s.afterTurn tr)
  | dispatch src => rfl

/-- What a command does to the trace. -/
theorem exec_trace {i : Instr} {s t : State} (h : exec i s = .next t) : t.trace = s.trace ++ commandOutputs s i := by
  have hself := exec_withTrace i s s.trace
  have hsame : s.withTrace s.trace = s := rfl
  rw [hsame, h, outcomeWithTrace_next, next_eq_next] at hself
  exact congrArg State.trace hself.symm

/-- What a step does to the trace. -/
theorem step_trace {s t : State} (h : step s = .next t) :
    t.trace = s.trace ++ actionOutputs s.afterTurn (s.action Config.params) := by
  have hself := step_withTrace s s.trace
  have hsame : s.withTrace s.trace = s := rfl
  rw [hsame, h, outcomeWithTrace_next, next_eq_next] at hself
  exact congrArg State.trace hself.symm

/-! ### The timer's registers and the outputs of commands -/

/-- What a command answers and emits depends on no register of the timer, only on `T_INIT` (R33, R34, R35). -/
theorem exec_trace_of_timer {i : Instr} {s t : State} {tm : Timer} (htm : tm.tInit = s.timer.tInit)
    (h : exec i s = .next t) : ∃ u, exec i { s with timer := tm } = .next u ∧ u.trace = t.trace := by
  suffices hnext : ∃ u, exec i { s with timer := tm } = .next u by
    obtain ⟨u, hu⟩ := hnext
    exact ⟨u, hu, (exec_trace hu).trans (exec_trace h).symm⟩
  cases i with
  | serialInit par dbits port baud => exact ⟨_, rfl⟩
  | serialSetEnabled rx tx =>
    obtain ⟨hinit, -⟩ := exec_serialSetEnabled_next.mp h
    exact ⟨_, exec_serialSetEnabled_next.mpr ⟨hinit, rfl⟩⟩
  | serialWriteByte b =>
    obtain ⟨hinit, htxe, -⟩ := exec_serialWriteByte_next.mp h
    exact ⟨_, exec_serialWriteByte_next.mpr ⟨hinit, htxe, rfl⟩⟩
  | serialReadByte =>
    obtain ⟨hinit, -⟩ := exec_serialReadByte_next.mp h
    exact ⟨_, exec_serialReadByte_next.mpr ⟨hinit, rfl⟩⟩
  | timerInit ticks => exact ⟨_, rfl⟩
  | timerEnable =>
    obtain ⟨hinit, -⟩ := exec_timerEnable_next.mp h
    exact ⟨_, exec_timerEnable_next.mpr ⟨htm.trans hinit, rfl⟩⟩
  | timerDisable =>
    obtain ⟨hinit, -⟩ := exec_timerDisable_next.mp h
    exact ⟨_, exec_timerDisable_next.mpr ⟨htm.trans hinit, rfl⟩⟩
  | irqGlobal en => exact ⟨_, rfl⟩
  | cbRet =>
    obtain ⟨hsrc, -⟩ := exec_cbRet_next.mp h
    exact ⟨_, exec_cbRet_next.mpr ⟨hsrc, rfl⟩⟩

/-! ### Callbacks -/

/-- Only `DISPATCH` emits a callback. -/
theorem callbacks_actionOutputs (s : State) {a : Action} (h : ∀ src, a ≠ .dispatch src) :
    callbacks (actionOutputs s a) = 0 := by
  cases a with
  | idle => rfl
  | reserved => rfl
  | command i => cases i <;> rfl
  | event e =>
    cases e with
    | txDrain => simp only [actionOutputs, eventOutputs]; split <;> rfl
    | _ => rfl
  | dispatch src => exact absurd rfl (h src)

theorem step_callbacks {s t : State} (h : step s = .next t)
    (hno : ∀ src, s.action Config.params ≠ .dispatch src) : callbacks t.trace = callbacks s.trace := by
  have hnone := callbacks_actionOutputs s.afterTurn hno
  rw [step_trace h]
  simp only [callbacks, List.countP_append] at hnone ⊢
  rw [hnone, Nat.add_zero]

end Sys2Proof.Machine
end

section
/-! The obligations about runs and about each piece of the state, from the rules above. -/

namespace Sys2Proof.Machine

/-! ### Runs -/

/-- `GIE` is set by `IRQ_GLOBAL 1` alone (R39). -/
theorem step_keeps_disabled {s t : State} (h : step s = .next t) (hgie : s.irq.gie = false)
    (hno : s.action Config.params ≠ .command (.irqGlobal true)) : t.irq.gie = false := by
  rw [step_gie h]
  split
  case h_1 en ha =>
    cases en with
    | false => rfl
    | true => exact absurd ha hno
  case h_2 => exact hgie

/-- Settles O59: along the run `GIE` stays 0, and so no step is a `DISPATCH`, which alone emits a callback. -/
theorem nothingIsDispatchedWhileDisabled : Obligations.NothingIsDispatchedWhileDisabled := by
  intro k s t h hgie hno
  have hkeeps := run_keeps_without (C := (· = .irqGlobal true))
    (P := fun m => m.irq.gie = false ∧ callbacks m.trace = callbacks s.trace) ?_ k s t ⟨hgie, rfl⟩ h
    (by rintro _ rfl; exact hno)
  · exact hkeeps.2
  · rintro m n ⟨hm, hcount⟩ hn hC
    exact ⟨step_keeps_disabled hn hm (hC _ rfl),
      (step_callbacks hn fun src => action_ne_dispatch src (.inl hm)).trans hcount⟩

/-- Settles O40: no step but `TIMER_INIT` writes `T_CFG`. -/
theorem configuredPeriodIsImmutable : Obligations.ConfiguredPeriodIsImmutable := by
  intro k s t h hno
  refine run_keeps_without (C := fun i => ∃ ticks, i = .timerInit ticks)
    (P := fun m => m.timer.cfg = s.timer.cfg) ?_ k s t rfl h (by rintro _ ⟨ticks, rfl⟩; exact hno ticks)
  intro m n hm hn hC
  exact (step_cfg hn fun ticks => hC _ ⟨ticks, rfl⟩).trans hm

/-! ### The trace -/

/-- Settles O34: a step is the same with every trace, and its next state's trace is the one before it with the
action's outputs appended. -/
theorem traceIsNeverRead : Obligations.TraceIsNeverRead := by
  intro s
  have hany := step_withTrace s
  cases h : step s with
  | next t =>
    rw [h] at hany
    exact ⟨_, step_trace h, hany⟩
  | fault f =>
    rw [h] at hany
    exact hany
  | refused r =>
    rw [h] at hany
    exact hany

/-! ### The Serial Transport -/

/-- Settles O41. -/
theorem uartFlagRule : Obligations.UartFlagRule :=
  fun _ _ h => ⟨step_rxc h, step_txe h, step_status_reserved h⟩

/-- Settles O42. -/
theorem uartRegisterRule : Obligations.UartRegisterRule :=
  fun _ _ h => ⟨step_ctrl h, step_txdata h, step_rxdata h, step_rxBusy h⟩

/-! ### The Timeout Timer -/

/-- Settles O37. -/
theorem overflowEnableBitRule : Obligations.OverflowEnableBitRule :=
  ⟨fun _ _ => step_ovie, fun _ => rfl, rfl⟩

/-- Settles O38: that no output depends on `OVF` holds of every register of the timer. -/
theorem overflowFlagRule : Obligations.OverflowFlagRule :=
  ⟨fun _ _ => step_ovf, fun _ => rfl, fun _ _ _ => exec_trace_of_timer rfl, rfl⟩

/-- Settles O39: that no output depends on `T_PER` and `T_CNT` holds of every register of the timer. -/
theorem periodAndCounterRule : Obligations.PeriodAndCounterRule :=
  ⟨fun _ _ h => ⟨step_per h, step_cnt h⟩, fun _ _ _ _ _ => exec_trace_of_timer rfl, rfl, rfl⟩

/-- {Uninitialized} is left by `TIMER_INIT`, for {Disabled}. -/
theorem step_leaves_uninitialized {s t : State} (h : step s = .next t) (hs : s.timer.uninitialized = true)
    (ht : t.timer.uninitialized = false) :
    (∃ ticks, s.action Config.params = .command (.timerInit ticks)) ∧ t.timer.disabled = true := by
  simp only [Timer.uninitialized, Bool.not_eq_true', Bool.not_eq_false'] at hs ht
  obtain hinit | ⟨ticks, ha⟩ := (step_tInit h).mp ht
  · rw [hs] at hinit
    cases hinit
  · refine ⟨⟨ticks, ha⟩, ?_⟩
    rw [step_timer h, ha]
    simp [Timer.disabled]

theorem step_armed {s t : State} (h : step s = .next t) :
    t.timer.armed =
      match s.action Config.params with
      | .command (.timerInit _) => false
      | .command .timerEnable => s.timer.ovie || s.timer.cfg != 0
      | .command .timerDisable => false
      | .dispatch .tmr => false
      | _ => s.timer.armed := by
  rw [step_timer h]
  cases s.action Config.params with
  | idle => rfl
  | reserved => rfl
  | command i => cases i <;> simp [Timer.armed]
  | event e => cases e <;> simp [Timer.armed]
  | dispatch src =>
    cases src with
    | tmr => simp [Timer.armed]
    | _ => rfl

/-- {Armed} is entered by `TIMER_ENABLE` with a nonzero period; with a zero one the interrupt stays masked. -/
theorem step_enters_armed {s t : State} (hinv : s.timer.Inv) (h : step s = .next t) (hs : s.timer.armed = false)
    (ht : t.timer.armed = true) : s.action Config.params = .command .timerEnable ∧ s.timer.cfg ≠ 0 := by
  rw [step_armed h] at ht
  split at ht
  case h_2 ha =>
    refine ⟨ha, fun hcfg => ?_⟩
    rw [hinv.zeroIsMasked hcfg, hcfg] at ht
    cases ht
  case h_5 =>
    rw [hs] at ht
    cases ht
  all_goals cases ht

/-- {Armed} is left by the expiry's dispatch, by `TIMER_DISABLE` or by `TIMER_INIT`. -/
theorem step_leaves_armed {s t : State} (h : step s = .next t) (hs : s.timer.armed = true)
    (ht : t.timer.armed = false) :
    (s.action Config.params = .dispatch .tmr ∧ t.timer.disabledEquivalent = true) ∨
    (s.action Config.params = .command .timerDisable ∧ t.timer.disabled = true) ∨
    ((∃ ticks, s.action Config.params = .command (.timerInit ticks)) ∧ t.timer.disabled = true) := by
  obtain ⟨hrun, hovie⟩ := Bool.and_eq_true_iff.mp hs
  rw [step_armed h] at ht
  split at ht
  case h_1 ticks ha =>
    refine .inr (.inr ⟨⟨ticks, ha⟩, ?_⟩)
    rw [step_timer h, ha]
    simp [Timer.disabled]
  case h_2 =>
    rw [hovie] at ht
    cases ht
  case h_3 ha =>
    obtain ⟨hinit, -⟩ := exec_timerDisable_next.mp (step_command h ha)
    rw [State.afterTurn_timer] at hinit
    refine .inr (.inl ⟨ha, ?_⟩)
    rw [step_timer h, ha]
    simp [Timer.disabled, hinit]
  case h_4 ha =>
    refine .inl ⟨ha, ?_⟩
    rw [step_timer h, ha]
    simp [Timer.disabledEquivalent, hrun]
  case h_5 =>
    rw [hs] at ht
    cases ht

/-- Settles O50. -/
theorem timerStateMachine : Obligations.TimerStateMachine := by
  intro s t hinv h
  refine ⟨fun hs => ?_, step_enters_armed hinv.timer h, step_leaves_armed h⟩
  cases ht : t.timer.uninitialized with
  | true => exact .inl rfl
  | false => exact .inr (step_leaves_uninitialized h hs ht)

/-! ### Initialisation -/

/-- Before `SERIAL_INIT` the other commands of the Serial Transport are refused (R171 CV1). -/
theorem exec_serial_refused {s : State} (h : s.uart.uInit = false) :
    (∀ rx tx, exec (.serialSetEnabled rx tx) s = .refused .useBeforeInit) ∧
    (∀ b, exec (.serialWriteByte b) s = .refused .useBeforeInit) ∧
    exec .serialReadByte s = .refused .useBeforeInit := by
  simp [exec, execSerialSetEnabled, serialSetEnabled, execSerialWriteByte, execSerialReadByte, h]

/-- Before `TIMER_INIT` the other commands of the timer are refused (R171 CV1). -/
theorem exec_timer_refused {s : State} (h : s.timer.tInit = false) :
    exec .timerEnable s = .refused .useBeforeInit ∧ exec .timerDisable s = .refused .useBeforeInit := by
  simp [exec, execTimerEnable, timerEnable, execTimerDisable, h]

/-- Settles O36. -/
theorem initBitsAreSetOnceAndKept : Obligations.InitBitsAreSetOnceAndKept :=
  ⟨fun _ _ h => ⟨step_uInit h, step_tInit h⟩, fun _ => exec_serial_refused, fun _ => exec_timer_refused,
    fun _ => rfl, rfl, rfl⟩

/-! ### The interrupt controller and `CV_LOG` -/

/-- Settles O43. -/
theorem interruptControlRule : Obligations.InterruptControlRule :=
  ⟨fun _ _ h => ⟨step_gie h, step_src h⟩, fun _ => action_ne_dispatch, exec_cbRet_refused_iff,
    fun _ _ _ _ => action_command_in_callback, rfl, rfl⟩

/-- Settles O44. -/
theorem violationLogRule : Obligations.ViolationLogRule :=
  ⟨fun _ _ => mem_step_cvLog, rfl⟩

end Sys2Proof.Machine
end

section
/-! SUPPORT. Which registers a step leaves (R61): each component's effect law, read register by register against the
list of the action's writes. -/

namespace Sys2Proof.Machine

/-! ### Registers an operation does not write -/

@[simp] theorem setEnabled_baud_frame (p : Params) (rx tx : Bool) (u : Uart) :
    (setEnabled p rx tx u).baud = u.baud ∧ (setEnabled p rx tx u).frame = u.frame := by
  obtain ⟨-, -, -, hbaud, hframe, -⟩ := setEnabled_spec p rx tx u
  exact ⟨hbaud, hframe⟩

@[simp] theorem disableTimer_cfg (t : Timer) : (disableTimer t).cfg = t.cfg := rfl

@[simp] theorem acknowledge_ctrl (src : Source) (t : Timer) : (acknowledge src t).ctrl = t.ctrl := by
  cases src <;> rfl

/-- Only the timer's own dispatch acknowledges anything in the timer (R174). -/
theorem acknowledge_of_ne_tmr {src : Source} (h : src ≠ .tmr) (t : Timer) : acknowledge src t = t := by
  cases src with
  | txe => rfl
  | rx => rfl
  | tmr => exact absurd rfl h

/-! ### A component that keeps every register a list does not name -/

/-- `v` keeps every register of `u` that is not in `ws`. -/
def Uart.SameOutside (ws : List Reg) (u v : Uart) : Prop :=
  (.uBaud ∉ ws → v.baud = u.baud) ∧ (.uCtrl ∉ ws → v.ctrl = u.ctrl) ∧ (.uFrame ∉ ws → v.frame = u.frame) ∧
  (.uStatus ∉ ws → v.status = u.status) ∧ (.uTxdata ∉ ws → v.txdata = u.txdata) ∧
  (.uRxdata ∉ ws → v.rxdata = u.rxdata)

/-- `v` keeps every register of `t` that is not in `ws`. -/
def Timer.SameOutside (ws : List Reg) (t v : Timer) : Prop :=
  (.tCfg ∉ ws → v.cfg = t.cfg) ∧ (.tCtrl ∉ ws → v.ctrl = t.ctrl) ∧ (.tIntctrl ∉ ws → v.intctrl = t.intctrl) ∧
  (.tIntflags ∉ ws → v.intflags = t.intflags) ∧ (.tPer ∉ ws → v.per = t.per) ∧ (.tCnt ∉ ws → v.cnt = t.cnt)

/-- `v` keeps every register of `q` that is not in `ws`. -/
def Irq.SameOutside (ws : List Reg) (q v : Irq) : Prop :=
  (.iCtrl ∉ ws → v.ctrl = q.ctrl) ∧ (.iSvc ∉ ws → v.svc = q.svc)

@[simp] theorem Uart.sameOutside_refl (ws : List Reg) (u : Uart) : Uart.SameOutside ws u u := by
  simp [Uart.SameOutside]

@[simp] theorem Timer.sameOutside_refl (ws : List Reg) (t : Timer) : Timer.SameOutside ws t t := by
  simp [Timer.SameOutside]

@[simp] theorem Irq.sameOutside_refl (ws : List Reg) (q : Irq) : Irq.SameOutside ws q q := by
  simp [Irq.SameOutside]

/-- The components hold every register of the register-number space. -/
theorem State.read_of_sameOutside {s t : State} {ws : List Reg} (huart : Uart.SameOutside ws s.uart t.uart)
    (htimer : Timer.SameOutside ws s.timer t.timer) (hirq : Irq.SameOutside ws s.irq t.irq) {r : Reg}
    (hr : r ∉ ws) : t.read r = s.read r := by
  obtain ⟨hbaud, huctrl, hframe, hstatus, htxdata, hrxdata⟩ := huart
  obtain ⟨hcfg, htctrl, hintctrl, hintflags, hper, hcnt⟩ := htimer
  obtain ⟨hictrl, hsvc⟩ := hirq
  cases r with
  | uBaud => exact hbaud hr
  | uCtrl => exact huctrl hr
  | uFrame => exact hframe hr
  | uStatus => exact hstatus hr
  | uTxdata => exact htxdata hr
  | uRxdata => exact hrxdata hr
  | tCfg => exact hcfg hr
  | tCtrl => exact htctrl hr
  | tIntctrl => exact hintctrl hr
  | tIntflags => exact hintflags hr
  | tPer => exact hper hr
  | tCnt => exact hcnt hr
  | iCtrl => exact hictrl hr
  | iSvc => exact hsvc hr

/-! ### The components after a step -/

theorem step_uart_sameOutside {s t : State} (h : step s = .next t) :
    Uart.SameOutside (s.action Config.params).writes s.uart t.uart := by
  rw [step_uart h]
  cases s.action Config.params with
  | idle => simp
  | reserved => simp
  | command i =>
    cases i with
    | serialReadByte => dsimp only; split <;> simp [Uart.SameOutside, Action.writes, Instr.writes]
    | _ => simp [Uart.SameOutside, Action.writes, Instr.writes]
  | event e =>
    cases e with
    | tclk => simp
    | _ => dsimp only; split <;> simp [Uart.SameOutside, Action.writes, HwEvent.writes]
  | dispatch src => simp

theorem step_timer_sameOutside {s t : State} (h : step s = .next t) :
    Timer.SameOutside (s.action Config.params).writes s.timer t.timer := by
  rw [step_timer h]
  cases s.action Config.params with
  | idle => simp
  | reserved => simp
  | command i => cases i <;> simp [Timer.SameOutside, Action.writes, Instr.writes]
  | event e => cases e <;> simp [Timer.SameOutside, Action.writes, HwEvent.writes]
  | dispatch src =>
    cases src with
    | tmr => simp [Timer.SameOutside, Action.writes]
    | _ => simp [acknowledge_of_ne_tmr]

theorem step_irq_sameOutside {s t : State} (h : step s = .next t) :
    Irq.SameOutside (s.action Config.params).writes s.irq t.irq := by
  rw [step_irq h]
  cases s.action Config.params with
  | idle => simp
  | reserved => simp
  | command i => cases i <;> simp [Irq.SameOutside, Action.writes, Instr.writes]
  | event e => simp
  | dispatch src => cases src <;> simp [Irq.SameOutside, Action.writes]

/-- Settles O45: each component keeps the registers the action's list does not name. -/
theorem stepsWriteOnlyTheirRegisters : Obligations.StepsWriteOnlyTheirRegisters :=
  fun _ _ h _ =>
    State.read_of_sameOutside (step_uart_sameOutside h) (step_timer_sameOutside h) (step_irq_sameOutside h)

end Sys2Proof.Machine
end

section
/-! The register-number space (R60, R61, R63): an access exists exactly when its number and width are those of a
register, and it is then that register's `read` or `write`. -/

namespace Sys2Proof.Machine

/-! ### Numbers and widths (R61) -/

theorem Reg.ofNumber_eq_some_iff {i : Nat} {r : Reg} : Reg.ofNumber i = some r ↔ r.number = i := by
  constructor
  · intro h
    have hi : i ≤ 13 := (Reg.ofNumber_isSome i).mp (by rw [h]; rfl)
    interval_cases i <;> cases h <;> rfl
  · rintro rfl
    exact Reg.ofNumber_number r

/-- The map's table: numbers 0, 6, 10 and 11 are 16 bits wide, the others up to 13 are 8. -/
theorem Reg.exists_number_width_iff (i n : Nat) :
    (∃ r : Reg, r.number = i ∧ r.width = n) ↔
      (n = 16 ∧ (i = 0 ∨ i = 6 ∨ i = 10 ∨ i = 11)) ∨ (n = 8 ∧ i ≤ 13 ∧ ¬(i = 0 ∨ i = 6 ∨ i = 10 ∨ i = 11)) := by
  constructor
  · rintro ⟨r, rfl, rfl⟩
    cases r <;> decide
  · intro h
    have hi : i ≤ 13 := by omega
    obtain ⟨r, hr⟩ := Option.isSome_iff_exists.mp ((Reg.ofNumber_isSome i).mpr hi)
    obtain rfl := Reg.ofNumber_eq_some_iff.mp hr
    refine ⟨r, rfl, ?_⟩
    cases r <;> simp_all [Reg.number]

/-! ### Accesses by number and width -/

/-- `MemRead` answers the register so numbered, if the width is its own. -/
theorem State.memRead_eq_some_iff {s : State} {i n : Nat} {u : BitVec n} :
    s.memRead i n = some u ↔ ∃ (r : Reg) (h : r.width = n), r.number = i ∧ u = (s.read r).cast h := by
  constructor
  · intro hread
    unfold State.memRead at hread
    split at hread
    · cases hread
    · rename_i r hr
      split at hread
      · rename_i hwidth
        cases hread
        exact ⟨r, hwidth, Reg.ofNumber_eq_some_iff.mp hr, rfl⟩
      · cases hread
  · rintro ⟨r, rfl, rfl, rfl⟩
    exact s.memRead_number r

/-- `MemWrite` at a register's number and width writes the register. -/
theorem State.memWrite_number (s : State) (r : Reg) (v : BitVec r.width) :
    s.memWrite r.number r.width v = some (s.write r v) := by
  simp [State.memWrite]

/-- `MemWrite` writes the register so numbered, if the width is its own. -/
theorem State.memWrite_eq_some_iff {s t : State} {i n : Nat} {v : BitVec n} :
    s.memWrite i n v = some t ↔ ∃ (r : Reg) (h : n = r.width), r.number = i ∧ t = s.write r (v.cast h) := by
  constructor
  · intro hwrite
    unfold State.memWrite at hwrite
    split at hwrite
    · cases hwrite
    · rename_i r hr
      split at hwrite
      · rename_i hwidth
        cases hwrite
        exact ⟨r, hwidth, Reg.ofNumber_eq_some_iff.mp hr, rfl⟩
      · cases hwrite
  · rintro ⟨r, rfl, rfl, rfl⟩
    exact s.memWrite_number r v

theorem State.exists_memRead_iff (s : State) (i n : Nat) :
    (∃ u, s.memRead i n = some u) ↔ ∃ r : Reg, r.number = i ∧ r.width = n := by
  simp only [State.memRead_eq_some_iff]
  constructor
  · rintro ⟨_, r, hwidth, hnumber, -⟩
    exact ⟨r, hnumber, hwidth⟩
  · rintro ⟨r, hnumber, hwidth⟩
    exact ⟨_, r, hwidth, hnumber, rfl⟩

theorem State.exists_memWrite_iff (s : State) (i n : Nat) (v : BitVec n) :
    (∃ t, s.memWrite i n v = some t) ↔ ∃ r : Reg, r.number = i ∧ r.width = n := by
  simp only [State.memWrite_eq_some_iff]
  constructor
  · rintro ⟨_, r, hwidth, hnumber, -⟩
    exact ⟨r, hnumber, hwidth.symm⟩
  · rintro ⟨r, hnumber, hwidth⟩
    exact ⟨_, r, hwidth.symm, hnumber, rfl⟩

/-! ### What a write leaves -/

/-- A write leaves every access to another number as it was, whether or not one exists there. -/
theorem State.memRead_write_of_ne (s : State) (r : Reg) (v : BitVec r.width) {j : Nat} (hj : j ≠ r.number) (m : Nat) :
    (s.write r v).memRead j m = s.memRead j m := by
  unfold State.memRead
  cases hq : Reg.ofNumber j with
  | none => rfl
  | some q =>
    have hne : q ≠ r := by
      rintro rfl
      exact hj (Reg.ofNumber_eq_some_iff.mp hq).symm
    simp only [s.read_write_of_ne r q v hne]

/-- A write leaves what is no register: `RX_BUSY`, the ghost items, the outputs and the turns. -/
theorem State.write_frame (s : State) (r : Reg) (v : BitVec r.width) :
    (s.write r v).uart.rxBusy = s.uart.rxBusy ∧ (s.write r v).uart.uInit = s.uart.uInit ∧
    (s.write r v).timer.tInit = s.timer.tInit ∧ (s.write r v).cvLog = s.cvLog ∧
    (s.write r v).trace = s.trace ∧ (s.write r v).turns = s.turns := by
  cases r <;> exact ⟨rfl, rfl, rfl, rfl, rfl, rfl⟩

/-- Settles O46: an access that exists is to one register, and the rules for that register's `write` apply. -/
theorem registerSpaceAccess : Obligations.RegisterSpaceAccess := by
  refine ⟨fun s i n v => ⟨?_, ?_⟩, fun s t i n v hwrite => ?_⟩
  · rw [s.exists_memRead_iff, Reg.exists_number_width_iff]
  · rw [s.exists_memWrite_iff, s.exists_memRead_iff]
  · obtain ⟨r, rfl, rfl, rfl⟩ := State.memWrite_eq_some_iff.mp hwrite
    refine ⟨?_, fun j m hj => s.memRead_write_of_ne r v hj m, s.write_frame r v⟩
    rw [State.memRead_number, BitVec.cast_eq, State.read_write_self]

end Sys2Proof.Machine
end

section
/-! SUPPORT. The encoding (R81 to R89). `decode_of_row` says once what the decoder makes of a word in a row of
spec/opcode_table.json; that a command's word lies in its row is `Laws.EncodeRow`. The round trips and the agreement
with the table follow from the two. -/

namespace Sys2Proof

/-! ### Fields of a word -/

/-- Two neighbouring fields are one field. -/
theorem field_append_field (w : Word) (lo m n : Nat) :
    field w (lo + m) n ++ field w lo m = field w lo (n + m) :=
  BitVec.extractLsb'_append_extractLsb'_eq_extractLsb' rfl

/-- All 32 bits of a word are the word. -/
theorem field_all (w : Word) : field w 0 32 = w := BitVec.extractLsb'_eq_self

/-- A single bit as a field. -/
theorem ofBool_getLsbD (w : Word) (k : Nat) : BitVec.ofBool (w.getLsbD k) = field w k 1 := by
  apply BitVec.eq_of_getLsbD_eq
  intro j hj
  obtain rfl : j = 0 := by omega
  simp [field]

theorem toNat_field (w : Word) (lo len : Nat) : (field w lo len).toNat = w.toNat / 2 ^ lo % 2 ^ len := by
  rw [field, BitVec.extractLsb'_toNat, Nat.shiftRight_eq_div_pow]

/-- The field of bits 27 to `lo` is zero when the low 28 bits are a number below `2 ^ lo`. -/
theorem field_eq_zero_iff (w : Word) {lo len : Nat} (h : lo + len = 28) :
    field w lo len = 0 ↔ w.toNat % 2 ^ 28 < 2 ^ lo := by
  have hzero : (0 : BitVec len).toNat = 0 := BitVec.toNat_zero
  rw [← BitVec.toNat_inj, toNat_field, ← Nat.mod_mul_right_div_self, ← pow_add, h, hzero, Nat.div_eq_zero_iff]
  simp

theorem opcode_eq_div (w : Word) : opcode w = w.toNat / 2 ^ 28 := by
  have hw : w.toNat < 2 ^ 32 := w.isLt
  rw [opcode, toNat_field]
  omega

/-- The opcode as bits. -/
theorem field_opcode_of_eq {w : Word} {k : Nat} (h : opcode w = k) : field w 28 4 = BitVec.ofNat 4 k := by
  rw [← h, opcode, BitVec.ofNat_toNat, BitVec.setWidth_eq]

/-- A word with the bits `value` under `mask` has the fields of `value` wherever `mask` is all ones. -/
theorem field_of_masked {w mask value : Word} {lo len : Nat} {v : BitVec len} (h : w &&& mask = value)
    (hv : field mask lo len = BitVec.allOnes len ∧ field value lo len = v) : field w lo len = v := by
  obtain ⟨hones, rfl⟩ := hv
  subst h
  simp only [field, BitVec.extractLsb'_and] at hones ⊢
  rw [hones, BitVec.and_allOnes]

/-- A word all of whose bits a row fixes is the row's value. -/
theorem eq_of_fully_masked {w value : Word} (h : w &&& 0xFFFFFFFF = value) : w = value := by
  rw [← h]
  exact BitVec.and_allOnes.symm

/-! ### The parity operand (R88) -/

@[simp] theorem Parity.ofCode_code (par : Parity) : Parity.ofCode par.code = par := by cases par <;> rfl

@[simp] theorem Parity.code_ofCode (c : BitVec 2) : (Parity.ofCode c).code = c := by revert c; decide

/-! ### A word in a row of the opcode table -/

/-- The command of the kind of `i` with its operands read from `w` (R82 to R88). -/
def Instr.readFrom (w : Word) : Instr → Instr
  | .serialInit _ _ _ _ =>
      .serialInit (Parity.ofCode (field w 26 2)) (field w 22 4).toNat (field w 20 2).toNat (field w 0 20).toNat
  | .serialSetEnabled _ _ => .serialSetEnabled (w.getLsbD 1) (w.getLsbD 0)
  | .serialWriteByte _ => .serialWriteByte (field w 0 8)
  | .serialReadByte => .serialReadByte
  | .timerInit _ => .timerInit (field w 0 16).toNat
  | .timerEnable => .timerEnable
  | .timerDisable => .timerDisable
  | .irqGlobal _ => .irqGlobal (w.getLsbD 0)
  | .cbRet => .cbRet

@[simp] theorem Instr.row_readFrom (w : Word) (i : Instr) : (i.readFrom w).row = i.row := by cases i <;> rfl

/-- What the decoder makes of a word in the row of `i`. -/
theorem decode_of_row {w : Word} {i : Instr} (h : w &&& i.row.mask = i.row.value) :
    decode w = .instr (i.readFrom w) := by
  cases i with
  | serialInit par dbits port baud =>
    change w &&& 0xF0000000 = 0x10000000 at h
    have hop : field w 28 4 = 1 := field_of_masked h (by decide)
    simp [decode, opcode, hop, Instr.readFrom]
  | serialSetEnabled rx tx =>
    change w &&& 0xFFFFFFFC = 0x20000000 at h
    have hop : field w 28 4 = 2 := field_of_masked h (by decide)
    have hzero : field w 2 26 = 0 := field_of_masked h (by decide)
    simp [decode, opcode, hop, hzero, ifZero, Instr.readFrom]
  | serialWriteByte byte =>
    change w &&& 0xFFFFFF00 = 0x30000000 at h
    have hop : field w 28 4 = 3 := field_of_masked h (by decide)
    have hzero : field w 8 20 = 0 := field_of_masked h (by decide)
    simp [decode, opcode, hop, hzero, ifZero, Instr.readFrom]
  | timerInit ticks =>
    change w &&& 0xFFFF0000 = 0x50000000 at h
    have hop : field w 28 4 = 5 := field_of_masked h (by decide)
    have hzero : field w 16 12 = 0 := field_of_masked h (by decide)
    simp [decode, opcode, hop, hzero, ifZero, Instr.readFrom]
  | irqGlobal en =>
    change w &&& 0xFFFFFFFE = 0x80000000 at h
    have hop : field w 28 4 = 8 := field_of_masked h (by decide)
    have hzero : field w 1 27 = 0 := field_of_masked h (by decide)
    simp [decode, opcode, hop, hzero, ifZero, Instr.readFrom]
  | serialReadByte => rw [eq_of_fully_masked h]; decide
  | timerEnable => rw [eq_of_fully_masked h]; decide
  | timerDisable => rw [eq_of_fully_masked h]; decide
  | cbRet => rw [eq_of_fully_masked h]; decide

/-! ### From a command to its word and back -/

/-- A command's word lies in the command's row. -/
theorem encode_mem_row (i : Instr) : encode i &&& i.row.mask = i.row.value := by
  cases i with
  | serialInit par dbits port baud => exact Laws.EncodeRow.serialInit par dbits port baud
  | serialSetEnabled rx tx => exact Laws.EncodeRow.serialSetEnabled rx tx
  | serialWriteByte byte => exact Laws.EncodeRow.serialWriteByte byte
  | serialReadByte => exact Laws.EncodeRow.serialReadByte
  | timerInit ticks => exact Laws.EncodeRow.timerInit ticks
  | timerEnable => exact Laws.EncodeRow.timerEnable
  | timerDisable => exact Laws.EncodeRow.timerDisable
  | irqGlobal en => exact Laws.EncodeRow.irqGlobal en
  | cbRet => exact Laws.EncodeRow.cbRet

/-- The fields of format SI (R82). -/
theorem field_encode_serialInit (par : Parity) (dbits port baud : Nat) :
    field (encode (.serialInit par dbits port baud)) 26 2 = par.code ∧
    field (encode (.serialInit par dbits port baud)) 22 4 = BitVec.ofNat 4 dbits ∧
    field (encode (.serialInit par dbits port baud)) 20 2 = BitVec.ofNat 2 port ∧
    field (encode (.serialInit par dbits port baud)) 0 20 = BitVec.ofNat 20 baud := by
  refine ⟨?_, ?_, ?_, BitVec.extractLsb'_append_eq_right⟩
  · exact (BitVec.extractLsb'_append_eq_of_le (by decide)).trans
      ((BitVec.extractLsb'_append_eq_of_le (by decide)).trans
        ((BitVec.extractLsb'_append_eq_of_le (by decide)).trans BitVec.extractLsb'_append_eq_right))
  · exact (BitVec.extractLsb'_append_eq_of_le (by decide)).trans
      ((BitVec.extractLsb'_append_eq_of_le (by decide)).trans BitVec.extractLsb'_append_eq_right)
  · exact (BitVec.extractLsb'_append_eq_of_le (by decide)).trans BitVec.extractLsb'_append_eq_right

/-- The operands read from the word of a command that fits it are the command's own. -/
theorem Instr.readFrom_encode {i : Instr} (h : i.WellFormed) : i.readFrom (encode i) = i := by
  cases i with
  | serialInit par dbits port baud =>
    simp only [Instr.WellFormed, Instr.wellFormed, Bool.and_eq_true, decide_eq_true_eq] at h
    obtain ⟨⟨hdbits, hport⟩, hbaud⟩ := h
    obtain ⟨epar, edbits, eport, ebaud⟩ := field_encode_serialInit par dbits port baud
    simp [Instr.readFrom, epar, edbits, eport, ebaud, Nat.mod_eq_of_lt, hdbits, hport, hbaud]
  | serialSetEnabled rx tx => revert rx tx; decide
  | serialWriteByte byte => exact congrArg Instr.serialWriteByte BitVec.extractLsb'_append_eq_right
  | timerInit ticks =>
    have hticks : ticks < 65536 := of_decide_eq_true h
    have eticks : field (encode (.timerInit ticks)) 0 16 = BitVec.ofNat 16 ticks :=
      BitVec.extractLsb'_append_eq_right
    simp [Instr.readFrom, eticks, Nat.mod_eq_of_lt hticks]
  | irqGlobal en => revert en; decide
  | _ => rfl

/-- Settles O1: the word lies in the command's row, so the decoder reads the command's own operands from it. -/
theorem decodeOfEncode : Obligations.DecodeOfEncode := by
  intro i hi
  rw [decode_of_row (encode_mem_row i), Instr.readFrom_encode hi]

/-! ### From a word to its command and back -/

/-- A format accepts the words whose zero bits are zero. -/
theorem ifZero_field_eq_instr_iff {w : Word} {lo len : Nat} {i j : Instr} :
    ifZero (field w lo len == 0) i = .instr j ↔ field w lo len = 0 ∧ i = j := by
  by_cases hzero : field w lo len = 0#len
  · simp [ifZero, hzero]
  · simp [ifZero, hzero]

theorem Instr.readFrom_wellFormed (w : Word) (i : Instr) : (i.readFrom w).WellFormed := by
  cases i with
  | serialInit par dbits port baud =>
    simp only [Instr.WellFormed, Instr.wellFormed, Instr.readFrom, Bool.and_eq_true, decide_eq_true_eq]
    exact ⟨⟨(field w 22 4).isLt, (field w 20 2).isLt⟩, (field w 0 20).isLt⟩
  | timerInit ticks => exact decide_eq_true (field w 0 16).isLt
  | _ => rfl

/-- The opcode and the zero bits of a format as one field of the word. -/
theorem opcode_append_zero {w : Word} {k lo len : Nat} (hop : opcode w = k) (hzero : field w lo len = 0)
    (h : lo + len = 28) : BitVec.ofNat 4 k ++ 0#len = field w lo (4 + len) := by
  have hfields := field_append_field w lo len 4
  rwa [h, field_opcode_of_eq hop, hzero] at hfields

/-- A word that decodes to a command is the concatenation of its fields, which is the command's word. -/
theorem encode_of_decode {w : Word} {i : Instr} (h : decode w = .instr i) : encode i = w := by
  unfold decode at h
  split at h
  case h_1 hop =>
    cases h
    rw [encode, Parity.code_ofCode, BitVec.ofNat_toNat, BitVec.ofNat_toNat, BitVec.ofNat_toNat, BitVec.setWidth_eq,
      BitVec.setWidth_eq, BitVec.setWidth_eq, ← field_opcode_of_eq hop, field_append_field w 26 2 4,
      field_append_field w 22 4 6, field_append_field w 20 2 10, field_append_field w 0 20 12]
    exact field_all w
  case h_2 hop =>
    obtain ⟨hzero, rfl⟩ := ifZero_field_eq_instr_iff.mp h
    rw [encode, opcode_append_zero hop hzero rfl, ofBool_getLsbD, ofBool_getLsbD, field_append_field w 1 1 30,
      field_append_field w 0 1 31]
    exact field_all w
  case h_3 hop =>
    obtain ⟨hzero, rfl⟩ := ifZero_field_eq_instr_iff.mp h
    rw [encode, opcode_append_zero hop hzero rfl, field_append_field w 0 8 24]
    exact field_all w
  case h_5 hop =>
    obtain ⟨hzero, rfl⟩ := ifZero_field_eq_instr_iff.mp h
    rw [encode, opcode_append_zero hop hzero rfl, BitVec.ofNat_toNat, BitVec.setWidth_eq,
      field_append_field w 0 16 16]
    exact field_all w
  case h_8 hop =>
    obtain ⟨hzero, rfl⟩ := ifZero_field_eq_instr_iff.mp h
    rw [encode, opcode_append_zero hop hzero rfl, ofBool_getLsbD, field_append_field w 0 1 31]
    exact field_all w
  case h_10 => cases h
  all_goals
    rename_i hop
    obtain ⟨hzero, rfl⟩ := ifZero_field_eq_instr_iff.mp h
    rw [encode, opcode_append_zero hop hzero rfl]
    exact field_all w

/-- A word that decodes to a command lies in the command's row. -/
theorem mem_row_of_decode {w : Word} {i : Instr} (h : decode w = .instr i) : w &&& i.row.mask = i.row.value := by
  rw [← encode_of_decode h]
  exact encode_mem_row i

/-- The decoder reads a command's operands from its word. -/
theorem readFrom_of_decode {w : Word} {i : Instr} (h : decode w = .instr i) : i.readFrom w = i := by
  have hread := decode_of_row (mem_row_of_decode h)
  rw [h] at hread
  injection hread with hi
  exact hi.symm

/-- Settles O2: the operands fit because they are fields of the word. -/
theorem encodeOfDecode : Obligations.EncodeOfDecode := by
  intro w i h
  refine ⟨?_, encode_of_decode h⟩
  rw [← readFrom_of_decode h]
  exact Instr.readFrom_wellFormed w i

/-! ### The opcode table -/

/-- Every row of the table is some command's. -/
theorem exists_row_eq {row : OpcodeRow} (h : row ∈ opcodeTable) : ∃ i : Instr, i.row = row := by
  simp only [opcodeTable, List.mem_cons, List.not_mem_nil, or_false] at h
  rcases h with rfl | rfl | rfl | rfl | rfl | rfl | rfl | rfl | rfl <;> exact ⟨_, rfl⟩

/-- Settles O4: a word in a row is decoded by `decode_of_row`; a decoded word is in its row by `mem_row_of_decode`. -/
theorem decoderAgreesWithOpcodeTable : Obligations.DecoderAgreesWithOpcodeTable := by
  intro w row hrow
  constructor
  · obtain ⟨i, rfl⟩ := exists_row_eq hrow
    exact fun hmasked => ⟨i.readFrom w, decode_of_row hmasked, i.row_readFrom w⟩
  · rintro ⟨i, hi, rfl⟩
    exact mem_row_of_decode hi

/-! ### The reserved encodings (R89) -/

/-- A format with its zero bits from bit `lo` upwards refuses the words whose low 28 bits are `2 ^ lo` or more. -/
theorem exists_invalid_ifZero_field {w : Word} {lo len : Nat} (h : lo + len = 28) (i : Instr) :
    (∃ why, ifZero (field w lo len == 0) i = .invalid why) ↔ 2 ^ lo ≤ w.toNat % 2 ^ 28 := by
  rw [← Nat.not_lt, ← field_eq_zero_iff w h]
  by_cases hzero : field w lo len = 0#len
  · simp [ifZero, hzero]
  · simp [ifZero, hzero]

theorem exists_invalid_iff (w : Word) : (∃ why, decode w = .invalid why) ↔ Machine.ReservedWord w := by
  have hdiv := opcode_eq_div w
  unfold decode Machine.ReservedWord
  rw [← hdiv]
  split
  case h_1 hop => simp [hop]
  case h_10 =>
    have hop : opcode w = 0 ∨ 10 ≤ opcode w := by grind
    refine iff_of_true ⟨.opcode, rfl⟩ ?_
    rw [← or_assoc]
    exact .inl hop
  all_goals
    rename_i hop
    rw [exists_invalid_ifZero_field rfl]
    simp [hop, Nat.one_le_iff_ne_zero]

/-- Settles O5: eleven closed words, evaluated. -/
theorem specWordsDecode : Obligations.SpecWordsDecode := by
  unfold Obligations.SpecWordsDecode
  decide

end Sys2Proof
end

section
/-! SUPPORT. The step at a command word that no dispatch goes before (R80, R89, R176). -/

namespace Sys2Proof.Machine

section
variable {s : State} {w : Word} {rest : List Turn}

/-- An accepted word is used up. -/
theorem State.afterTurn_of_accepted (hturns : s.turns = .engine w :: rest) (hno : s.canDispatch = false) :
    s.afterTurn = { s with turns := rest } := by
  have hholds : s.holds = false := by simp only [State.holds, hturns, hno]
  rw [State.afterTurn_of_not_holds hholds, hturns, List.tail_cons]

theorem State.action_of_accepted_command {p : Params} {i : Instr} (hturns : s.turns = .engine w :: rest)
    (hno : s.canDispatch = false) (hi : decode w = .instr i) : s.action p = .command i := by
  simp [State.action, hturns, hno, hi]

theorem State.action_of_accepted_reserved {p : Params} {why : Reserved} (hturns : s.turns = .engine w :: rest)
    (hno : s.canDispatch = false) (hw : decode w = .invalid why) : s.action p = .reserved := by
  simp [State.action, hturns, hno, hw]

end

/-- Settles O6: the turn comes to the command, in the state whose turn is used up. -/
theorem stepRunsTheDecodedCommand : Obligations.StepRunsTheDecodedCommand := by
  intro s w rest i hturns hi hno
  simp only [step, State.action_of_accepted_command hturns hno hi, State.afterTurn_of_accepted hturns hno]

/-- Settles O3: `exists_invalid_iff` says which words the decoder refuses, and the step follows its verdict. -/
theorem reservedWordsAreRefused : Obligations.ReservedWordsAreRefused := by
  intro w
  refine ⟨exists_invalid_iff w, fun hw s rest hturns hno => ?_, ?_, ?_⟩
  · obtain ⟨why, hwhy⟩ := (exists_invalid_iff w).mpr hw
    simp only [step, State.action_of_accepted_reserved hturns hno hwhy]
  · simp [ReservedWord]
  · simp [ReservedWord]

/-- Settles O33: what a command appends to the trace is `commandOutputs`. -/
theorem responsesOfCommands : Obligations.ResponsesOfCommands := by
  intro i s t h
  rw [exec_trace h]
  cases i <;> rfl

end Sys2Proof.Machine
end

section
/-! SUPPORT. The small lemmas the Serial Transport's obligations need (R100 to R104, R152): when two states of the
Serial Transport are equal, the divisor, and each operation of `SERIAL_INIT` and the transmitter case by case. -/

namespace Sys2Proof.Machine

/-! ### Equality by registers, and by fields -/

/-- A state of the Serial Transport is its registers, `RX_BUSY` and `U_INIT`. -/
theorem Uart.eq_of_registers {u v : Uart} (hbaud : u.baud = v.baud) (hctrl : u.ctrl = v.ctrl)
    (hframe : u.frame = v.frame) (hstatus : u.status = v.status) (htxdata : u.txdata = v.txdata)
    (hrxdata : u.rxdata = v.rxdata) (hbusy : u.rxBusy = v.rxBusy) (hinit : u.uInit = v.uInit) : u = v := by
  cases u; cases v
  simp_all

/-- Bytes that agree on a field agree on its bits. -/
theorem getLsbD_eq_of_extract_eq {r q : Byte} {lo len j : Nat} (h : r.extractLsb' lo len = q.extractLsb' lo len)
    (hlo : lo ≤ j) (hj : j < lo + len) : r.getLsbD j = q.getLsbD j := by
  have hbit := congrArg (BitVec.getLsbD · (j - lo)) h
  have hlt : j - lo < len := by omega
  simpa only [BitVec.getLsbD_extractLsb', hlt, decide_true, Bool.true_and, Nat.add_sub_cancel' hlo] using hbit

/-- `U_FRAME` is its two fields and its reserved bits (R23). -/
theorem Uart.frame_eq_of_fields {u v : Uart} (hpmode : u.pmode = v.pmode) (hchsize : u.chsize = v.chsize)
    (hreserved : u.frame.extractLsb' 3 5 = v.frame.extractLsb' 3 5) : u.frame = v.frame := by
  apply BitVec.eq_of_getLsbD_eq
  intro j hj
  obtain hlow | rfl | hhigh : j < 2 ∨ j = 2 ∨ 3 ≤ j := by omega
  · exact getLsbD_eq_of_extract_eq hpmode (Nat.zero_le j) (by omega)
  · exact hchsize
  · exact getLsbD_eq_of_extract_eq hreserved hhigh (by omega)

/-- `U_STATUS` is its two flags and its reserved bits (R24). -/
theorem Uart.status_eq_of_fields {u v : Uart} (hrxc : u.rxc = v.rxc) (htxe : u.txe = v.txe)
    (hreserved : u.status.extractLsb' 2 6 = v.status.extractLsb' 2 6) : u.status = v.status := by
  apply BitVec.eq_of_getLsbD_eq
  intro j hj
  obtain rfl | rfl | hhigh : j = 0 ∨ j = 1 ∨ 2 ≤ j := by omega
  · exact hrxc
  · exact htxe
  · exact getLsbD_eq_of_extract_eq hreserved hhigh (by omega)

/-! ### The divisor (R101) -/

theorem validPair_iff (clock rate : Nat) :
    validPair clock rate = true ↔ 1 ≤ rate ∧ 1 ≤ clock / (16 * rate) ∧ clock / (16 * rate) ≤ 65536 := by
  simp only [validPair, Bool.and_eq_true, decide_eq_true_eq, and_assoc]
  rfl

theorem divisor_of_valid {clock rate : Nat} (h : validPair clock rate = true) (free : Half) :
    divisor clock rate free = BitVec.ofNat 16 (baudQuotient clock rate - 1) := if_pos h

theorem divisor_of_not_valid {clock rate : Nat} (h : ¬validPair clock rate = true) (free : Half) :
    divisor clock rate free = free := if_neg h

/-- The quotient less 1 fits the 16 bits of `U_BAUD`. -/
theorem divisor_toNat_of_valid {clock rate : Nat} (h : validPair clock rate = true) (free : Half) :
    (divisor clock rate free).toNat = clock / (16 * rate) - 1 := by
  obtain ⟨-, hlow, hhigh⟩ := (validPair_iff clock rate).mp h
  rw [divisor_of_valid h, BitVec.toNat_ofNat, baudQuotient]
  exact Nat.mod_eq_of_lt (by omega)

/-! ### `SERIAL_INIT` (R100) -/

@[simp] theorem programChsize_baud (dbits : Nat) (u : Uart) : (u.programChsize dbits).baud = u.baud := by
  unfold Uart.programChsize; split_ifs <;> rfl
@[simp] theorem programPmode_baud (par : Parity) (u : Uart) : (u.programPmode par).baud = u.baud := by
  cases par <;> rfl

@[simp] theorem initUart_baud (p : Params) (par : Parity) (dbits baud : Nat) (free : Half) (u : Uart) :
    (initUart p par dbits baud free u).baud = divisor p.fPer baud free := by
  simp [initUart]

/-- A parity mode programmed twice is programmed. -/
theorem programPmode_pmode_of_programmed {par : Parity} {u v : Uart} (h : v.pmode = (u.programPmode par).pmode) :
    (v.programPmode par).pmode = v.pmode := by
  rw [(programPmode_spec par v).1]
  cases par with
  | unmatched => rfl
  | none | even | odd => rw [h]; exact (pmode_setPmode _ _).symm

/-- A character size programmed twice is programmed. -/
theorem programChsize_chsize_of_programmed {dbits : Nat} {u v : Uart}
    (h : v.chsize = (u.programChsize dbits).chsize) : (v.programChsize dbits).chsize = v.chsize := by
  rw [(programChsize_spec dbits u).1] at h
  rw [(programChsize_spec dbits v).1]
  split_ifs at h ⊢ <;> simp [h]

/-- With a valid pair `SERIAL_INIT` finds what it left: the divisor depends on the operands alone, and every other
field is assigned, kept, or cleared once more (R100 (c)). -/
theorem initUart_initUart {p : Params} {baud : Nat} (hvalid : validPair p.fPer baud = true) (par : Parity)
    (dbits : Nat) (free free' : Half) (u : Uart) :
    initUart p par dbits baud free' (initUart p par dbits baud free u) = initUart p par dbits baud free u := by
  obtain ⟨hctrl, hbusy, hrxc, -, -, -, -, hinit, -, hpmode, hchsize⟩ := initUart_spec p par dbits baud free u
  set v := initUart p par dbits baud free u with hv
  obtain ⟨hctrl', hbusy', hrxc', htxe', hstatus', htxdata', hrxdata', hinit', hframe', hpmode', hchsize'⟩ :=
    initUart_spec p par dbits baud free' v
  have hbaud : (initUart p par dbits baud free' v).baud = v.baud := by
    rw [hv, initUart_baud, initUart_baud, divisor_of_valid hvalid, divisor_of_valid hvalid]
  have hframe : (initUart p par dbits baud free' v).frame = v.frame :=
    Uart.frame_eq_of_fields (hpmode'.trans (programPmode_pmode_of_programmed hpmode))
      (hchsize'.trans (programChsize_chsize_of_programmed hchsize)) hframe'
  have hstatus : (initUart p par dbits baud free' v).status = v.status :=
    Uart.status_eq_of_fields (by rw [hrxc', hrxc, Bool.and_assoc, Bool.and_self]) htxe' hstatus'
  exact Uart.eq_of_registers hbaud (hctrl'.trans hctrl.symm) hframe hstatus htxdata' hrxdata'
    (hbusy'.trans hbusy.symm) (hinit'.trans hinit.symm)

/-! ### The set-enabled step (R102) -/

/-- The set-enabled step finds what it left: it assigns `U_CTRL` and clears the rest (R102 (f)). -/
theorem setEnabled_setEnabled (p : Params) (rx tx : Bool) (u : Uart) :
    setEnabled p rx tx (setEnabled p rx tx u) = setEnabled p rx tx u := by
  cases rx with
  | true => rfl
  | false => cases hflush : p.rxFlushOnDisable <;> simp [setEnabled, hflush]

/-! ### `SERIAL_WRITE_BYTE` and `SERIAL_READ_BYTE` (R103, R104) -/

/-- A write to a register that is not free is a fault (R103, R171 CV2). -/
theorem exec_serialWriteByte_fault {s : State} (byte : Byte) (hinit : s.uart.uInit = true)
    (htxe : s.uart.txe = false) : exec (.serialWriteByte byte) s = .fault .writeNotFree := by
  simp [exec, execSerialWriteByte, hinit, htxe]

theorem exec_serialReadByte_of_present {s : State} (hinit : s.uart.uInit = true) (hrxc : s.uart.rxc = true) :
    exec .serialReadByte s =
      .next ({ s with uart := s.uart.setRxc false }.emit (.response s.uart.rxdata)) :=
  exec_serialReadByte_next.mpr ⟨hinit, (if_pos hrxc).symm⟩

theorem exec_serialReadByte_of_absent {s : State} (hinit : s.uart.uInit = true) (hrxc : s.uart.rxc = false) :
    exec .serialReadByte s =
      .next (((s.logViolation .cv3).drawn).emit (.response (Config.freeByte s.freeCount))) :=
  exec_serialReadByte_next.mpr ⟨hinit, by simp [hrxc]⟩

/-- With the flag 0 the source is not deliverable (R42). -/
theorem State.not_deliverable_of_not_pending {s : State} {src : Source} (h : s.pending src = false) :
    s.deliverable src = false := by
  rw [State.deliverable, h, Bool.false_and]

/-- With the flag 1 the enable bit decides (R42). -/
theorem State.deliverable_of_pending {s : State} {src : Source} (h : s.pending src = true) :
    s.deliverable src = s.enabled src := by
  rw [State.deliverable, h, Bool.true_and]

/-! ### `TX_DRAIN` (R152) -/

/-- The character of `U_TXDATA` as a number: all eight bits, or the low seven. -/
theorem lineData_toNat (u : Uart) :
    (lineData u).toNat = if u.chsize then u.txdata.toNat else u.txdata.toNat % 128 := by
  rw [lineData, apply_ite BitVec.toNat, sevenBits_toNat]

/-- A waiting byte is sent while the transmitter is enabled. -/
theorem txDrain_of_waiting {s : State} (htxe : s.uart.txe = false) (htxen : s.uart.txen = true) :
    txDrain s =
      ({ s with uart := s.uart.setTxe true }.drawn).emit
        (.line (lineData s.uart) (parityBit s.uart.pmode (lineData s.uart) (Config.freeParity s.freeCount))) := by
  simp [txDrain, htxe, htxen]

/-- With nothing waiting nothing is sent. -/
theorem txDrain_of_free {s : State} (htxe : s.uart.txe = true) : txDrain s = s := by
  simp [txDrain, htxe]

end Sys2Proof.Machine
end

section
/-! The obligations about the Serial Transport's commands (R100 to R104), from the laws of their operations. -/

namespace Sys2Proof.Machine

/-! ### `SERIAL_INIT` -/

/-- Settles O12: the quotient less 1 fits 16 bits exactly for the pairs the rule calls valid. -/
theorem divisorLaw : Obligations.DivisorLaw := by
  refine ⟨fun clock rate free => ?_, fun par dbits port baud s t h => ?_, fun free => ?_⟩
  · rw [← validPair_iff]
    exact ⟨fun hvalid => divisor_toNat_of_valid hvalid free, fun hnot => divisor_of_not_valid hnot free⟩
  · rw [exec_serialInit, next_eq_next] at h
    subst h
    exact ⟨initUart_baud _ _ _ _ _ _, rfl⟩
  · exact ⟨rfl, rfl, rfl, rfl, rfl, rfl, rfl, rfl⟩

/-- Settles O13: a valid pair leaves no free value in the divisor, and every other field is programmed again. -/
theorem serialInitReappliesIdentically : Obligations.SerialInitReappliesIdentically := by
  refine ⟨fun p par dbits port baud s hvalid => initUart_initUart hvalid par dbits _ _ s.uart,
    fun par dbits port baud s => ⟨_, _, rfl, rfl, rfl, ?_⟩⟩
  exact List.append_assoc s.trace [.response 0x01] [.response 0x01]

/-- Settles O11: `initUart_spec` has the fields, the frame operands' laws what `DBITS` and `PAR` come to. -/
theorem serialInitResult : Obligations.SerialInitResult := by
  intro par dbits port baud s
  obtain ⟨hctrl, hbusy, hrxc, htxe, hstatus, htxdata, hrxdata, hinit, hframe, hpmode, hchsize⟩ :=
    initUart_spec Config.params par dbits baud (Config.freeHalf s.freeCount) s.uart
  exact ⟨_, exec_serialInit par dbits port baud s, hctrl, hinit, hbusy,
    hchsize.trans (programChsize_spec dbits s.uart).1, hpmode.trans (programPmode_spec par s.uart).1, hframe, hrxc,
    htxe, hstatus, htxdata, hrxdata, rfl, rfl, rfl, rfl, rfl, fun _ => rfl⟩

/-! ### `SERIAL_SET_ENABLED` -/

/-- Settles O15: the step assigns all of `U_CTRL` from its operands, and clears again what it cleared. -/
theorem serialSetEnabledConverges : Obligations.SerialSetEnabledConverges := by
  intro rx tx s t h
  obtain ⟨hinit, rfl⟩ := exec_serialSetEnabled_next.mp h
  have hkept (rx tx : Bool) : (setEnabled Config.params rx tx s.uart).uInit = true := by simp [hinit]
  refine ⟨exec_serialSetEnabled_next.mpr ⟨hkept rx tx, by rw [setEnabled_setEnabled]⟩, fun rx' tx' m hm => ?_⟩
  obtain ⟨-, rfl⟩ := exec_serialSetEnabled_next.mp hm
  exact ⟨_, exec_serialSetEnabled_next.mpr ⟨hkept rx' tx', rfl⟩, by simp⟩

/-- Settles O14: the set-enabled step's law, with the four values R102 lists for `U_CTRL`. -/
theorem serialSetEnabledResult : Obligations.SerialSetEnabledResult := by
  intro rx tx s
  refine ⟨fun hinit => ?_, fun hinit => (exec_serial_refused hinit).1 rx tx⟩
  obtain ⟨hctrl, hbusy, -, hbaud, hframe, htxdata, hrxdata, hkept⟩ := setEnabled_spec Config.params rx tx s.uart
  obtain ⟨hrxc, htxe, hstatus⟩ := setEnabled_flags Config.params rx tx s.uart
  exact ⟨_, exec_serialSetEnabled_next.mpr ⟨hinit, rfl⟩, hctrl.trans (ctrlValue_cases rx tx), hbusy, hrxc, htxe,
    hstatus, hbaud, hframe, htxdata, hrxdata, hkept.trans hinit, rfl, rfl, rfl, rfl, rfl⟩

/-! ### `SERIAL_WRITE_BYTE` and `SERIAL_READ_BYTE` -/

/-- Settles O16: only `U_TXDATA` and the bit `TXE` of `U_STATUS` are written. -/
theorem serialWriteByteResult : Obligations.SerialWriteByteResult := by
  intro byte s
  refine ⟨fun hinit htxe => ?_, exec_serialWriteByte_fault byte, fun hinit => (exec_serial_refused hinit).2.1 byte⟩
  have hfree : ({ s.uart with txdata := byte }.setTxe false).txe = false := txe_setTxe _ false
  exact ⟨_, exec_serialWriteByte_next.mpr ⟨hinit, htxe, rfl⟩, rfl, hfree,
    State.not_deliverable_of_not_pending hfree, rxc_setTxe _ false, status_reserved_putBit _ _ _ (by decide),
    rfl, rfl, rfl, rfl, rfl, hinit, rfl, rfl, rfl, rfl, rfl⟩

/-- Settles O17: with a byte present the read clears `RXC`; with none it leaves the Serial Transport as it is. -/
theorem serialReadByteResult : Obligations.SerialReadByteResult := by
  intro s
  refine ⟨fun hinit => ?_, fun hinit => (exec_serial_refused hinit).2.2⟩
  cases hrxc : s.uart.rxc with
  | true =>
    have hread : (s.uart.setRxc false).rxc = false := rxc_setRxc _ false
    exact ⟨_, exec_serialReadByte_of_present hinit hrxc, fun _ => ⟨rfl, rfl⟩, nofun, hread,
      State.not_deliverable_of_not_pending hread, txe_setRxc _ false, status_reserved_putBit _ _ _ (by decide),
      rfl, rfl, rfl, rfl, rfl, rfl, hinit, rfl, rfl, rfl⟩
  | false =>
    exact ⟨_, exec_serialReadByte_of_absent hinit hrxc, nofun, fun _ => ⟨rfl, fun c => mem_insertCode _ c _⟩, hrxc,
      State.not_deliverable_of_not_pending hrxc, rfl, rfl, rfl, rfl, rfl, rfl, rfl, rfl, hinit, rfl, rfl, rfl⟩

/-- Settles O60: the write leaves `TXE` 0, so the first `TX_DRAIN` sends the byte and leaves `TXE` 1, and the second
finds nothing waiting. -/
theorem writtenByteIsSentOnce : Obligations.WrittenByteIsSentOnce := by
  intro s t byte h htxen
  obtain ⟨-, -, rfl⟩ := exec_serialWriteByte_next.mp h
  intro u
  have hu : u = _ := txDrain_of_waiting (txe_setTxe _ false) htxen
  have hfree : u.uart.txe = true := by rw [hu]; exact txe_setTxe _ true
  refine ⟨⟨_, lineData_toNat ({ s.uart with txdata := byte }.setTxe false), ?_⟩, ?_, txDrain_of_free hfree⟩
  · rw [hu]; rfl
  · rw [State.deliverable_of_pending (src := .txe) hfree, hu]; rfl

end Sys2Proof.Machine
end

section
/-! SUPPORT. The small lemmas the timer's obligations need (R120 to R123): the period as a number, the states of the
timer after each command, and that a masked timer's interrupt is not taken. -/

namespace Sys2Proof.Machine

/-! ### The period (R121) -/

theorem period_toNat_of_fits {tickCounts ticks : Nat} (h : ticks * tickCounts ≤ 65535) (free : Half) :
    (period tickCounts ticks free).toNat = ticks * tickCounts := by
  rw [period, if_pos h, BitVec.toNat_ofNat]
  exact Nat.mod_eq_of_lt (by omega)

theorem period_of_not_fits {tickCounts ticks : Nat} (h : 65535 < ticks * tickCounts) (free : Half) :
    period tickCounts ticks free = free := if_neg (Nat.not_le.mpr h)

@[simp] theorem period_zero (tickCounts : Nat) (free : Half) : period tickCounts 0 free = 0 := by
  simp [period]

/-! ### The states of the timer after its commands (R37) -/

@[simp] theorem initTimer_disabled (p : Params) (k : Nat) (f : Half) (t : Timer) :
    (initTimer p k f t).disabled = true := by
  simp [Timer.disabled]

theorem enableTimer_ovie_of_ne_zero (p : Params) {t : Timer} (h : t.cfg ≠ 0) : (enableTimer p t).ovie = true := by
  rw [enableTimer_ovie, bne_iff_ne.mpr h, Bool.or_true]

theorem enableTimer_armed (p : Params) {t : Timer} (h : t.cfg ≠ 0) : (enableTimer p t).armed = true := by
  rw [Timer.armed, enableTimer_run, enableTimer_ovie_of_ne_zero p h, Bool.and_self]

theorem disableTimer_disabled {t : Timer} (h : t.tInit = true) : (disableTimer t).disabled = true := by
  simp [Timer.disabled, h]

/-! ### The registers `TIMER_DISABLE` writes in part (R123) -/

/-- What the rule leaves of the three registers it clears a bit of (decision D20). -/
theorem disableTimer_other_bits (t : Timer) :
    (disableTimer t).clksel = t.clksel ∧ (disableTimer t).ctrl.extractLsb' 4 4 = t.ctrl.extractLsb' 4 4 ∧
    (disableTimer t).intctrl.extractLsb' 1 7 = t.intctrl.extractLsb' 1 7 ∧
    (disableTimer t).intflags.extractLsb' 1 7 = t.intflags.extractLsb' 1 7 :=
  ⟨clksel_setRun t false, extract_putBit_of_outside _ _ _ _ _ (by decide) (by decide),
    extract_putBit_of_outside _ _ _ _ _ (by decide) (by decide),
    extract_putBit_of_outside _ _ _ _ _ (by decide) (by decide)⟩

/-! ### The enable bit and what is deliverable -/

/-- With the enable bit 1 the flag decides (R42). -/
theorem State.deliverable_of_enabled {s : State} {src : Source} (h : s.enabled src = true) :
    s.deliverable src = s.pending src := by
  rw [State.deliverable, h, Bool.and_true]

/-- A masked source is not taken: `DISPATCH` needs it deliverable (R42, R174). -/
theorem action_ne_dispatch_of_masked {s : State} {p : Params} {src : Source} (h : s.enabled src = false) :
    s.action p ≠ .dispatch src := by
  intro ha
  obtain ⟨-, hdel⟩ := State.dispatchable_imp (State.action_dispatch ha)
  simp [State.deliverable, h] at hdel

/-- Only `TIMER_ENABLE` unmasks the timer (R32). -/
theorem step_keeps_masked {s t : State} (h : step s = .next t) (hmask : s.timer.ovie = false)
    (hno : s.action Config.params ≠ .command .timerEnable) : t.timer.ovie = false := by
  rw [step_ovie h]
  split
  case h_1 ha => exact absurd ha hno
  case h_5 => exact hmask
  all_goals rfl

/-! ### Expiries -/

theorem expiries_le_callbacks (trace : List Output) : expiries trace ≤ callbacks trace :=
  List.countP_mono_left fun o _ ho => by rw [eq_of_beq ho]; rfl

/-- Only `DISPATCH(TMR)` emits an `onTimerExpired` (R91). -/
theorem expiries_actionOutputs (s : State) {a : Action} (h : a ≠ .dispatch .tmr) :
    expiries (actionOutputs s a) = 0 := by
  by_cases hdispatch : ∃ src, a = .dispatch src
  · obtain ⟨src, rfl⟩ := hdispatch
    cases src with
    | txe => rfl
    | rx => rfl
    | tmr => exact absurd rfl h
  · have hnone := callbacks_actionOutputs s fun src ha => hdispatch ⟨src, ha⟩
    exact Nat.eq_zero_of_le_zero ((expiries_le_callbacks _).trans_eq hnone)

theorem step_expiries {s t : State} (h : step s = .next t) (hno : s.action Config.params ≠ .dispatch .tmr) :
    expiries t.trace = expiries s.trace := by
  have hnone := expiries_actionOutputs s.afterTurn hno
  rw [step_trace h]
  simp only [expiries, List.count_append] at hnone ⊢
  rw [hnone, Nat.add_zero]

/-- A timer masked at the start of a run that executes no `TIMER_ENABLE` stays masked along it, and so no step of
it is a `DISPATCH(TMR)`. -/
theorem run_expiries_of_masked {k : Nat} {s t : State} (h : run k s = .next t) (hmask : s.timer.ovie = false)
    (hno : ¬executes k s .timerEnable) : t.timer.ovie = false ∧ expiries t.trace = expiries s.trace := by
  refine run_keeps_without (C := (· = .timerEnable))
    (P := fun m => m.timer.ovie = false ∧ expiries m.trace = expiries s.trace) ?_ k s t ⟨hmask, rfl⟩ h
    (by rintro _ rfl; exact hno)
  rintro m n ⟨hm, hcount⟩ hn hC
  exact ⟨step_keeps_masked hn hm (hC _ rfl),
    (step_expiries hn (action_ne_dispatch_of_masked (src := .tmr) hm)).trans hcount⟩

end Sys2Proof.Machine
end

section
/-! The obligations about the Timeout Timer's commands (R120 to R123), from the laws of their operations. -/

namespace Sys2Proof.Machine

/-- Settles O51: the disable masks the timer, and a run without `TIMER_ENABLE` leaves it masked. -/
theorem noExpiryAfterDisable : Obligations.NoExpiryAfterDisable := by
  intro s₀ s t k hdisable hrun hno
  obtain ⟨-, rfl⟩ := exec_timerDisable_next.mp hdisable
  exact (run_expiries_of_masked hrun (disableTimer_ovie s₀.timer) hno).2

/-- Settles O19: the product is the period exactly while it fits 16 bits. -/
theorem periodLaw : Obligations.PeriodLaw := by
  refine ⟨fun tickCounts ticks free => ⟨fun hfits => period_toNat_of_fits hfits free,
    fun hnot => period_of_not_fits hnot free, period_zero tickCounts free, fun hfits => ?_⟩,
    fun ticks s t h => ?_, fun free => ⟨rfl, rfl, rfl, rfl⟩⟩
  · rw [period_toNat_of_fits (by omega), Nat.one_mul]
  · rw [exec_timerInit, next_eq_next] at h
    subst h
    rfl

/-- Settles O18: `initTimer` assigns every field the rule names and leaves the timer {Disabled}. -/
theorem timerInitResult : Obligations.TimerInitResult := by
  intro ticks s
  exact ⟨_, exec_timerInit ticks s, rfl, rfl, rfl, rfl, rfl, rfl, rfl, initTimer_disabled _ _ _ _, rfl, rfl, rfl, rfl,
    rfl⟩

/-- Settles O20: a nonzero period starts the window afresh and unmasks, after which the flag alone decides what is
deliverable; a zero period leaves all but `T_CTRL`. -/
theorem timerEnableResult : Obligations.TimerEnableResult := by
  intro s
  refine ⟨fun hinit => ?_, fun hinit => (exec_timer_refused hinit).1⟩
  refine ⟨_, exec_timerEnable_next.mpr ⟨hinit, rfl⟩, fun hcfg => ?_, fun hcfg => ?_,
    timerCtrlValue_toNat Config.params.prescSel, enableTimer_intctrl_reserved _ _, enableTimer_intflags _ _,
    enableTimer_cfg _ _, (enableTimer_tInit _ _).trans hinit, rfl, rfl, rfl, rfl, rfl⟩
  · have hunmasked := enableTimer_ovie_of_ne_zero Config.params hcfg
    exact ⟨(enableTimer_per _ _).trans (if_pos hcfg), (enableTimer_cnt _ _).trans (if_pos hcfg), hunmasked,
      enableTimer_armed _ hcfg, Eq.trans (State.deliverable_of_enabled hunmasked) (enableTimer_ovf _ _)⟩
  · rw [enableTimer_of_zero _ hcfg]
    exact ⟨rfl, rfl, rfl⟩

/-- Settles O21: the three bits are cleared, and with `OVF` 0 the timer is not deliverable. -/
theorem timerDisableResult : Obligations.TimerDisableResult := by
  intro s
  refine ⟨fun hinit => ?_, fun hinit => (exec_timer_refused hinit).2⟩
  obtain ⟨hclksel, hctrl, hintctrl, hintflags⟩ := disableTimer_other_bits s.timer
  have hovf : (disableTimer s.timer).ovf = false := disableTimer_ovf s.timer
  exact ⟨_, exec_timerDisable_next.mpr ⟨hinit, rfl⟩, disableTimer_run _, disableTimer_ovie _, hovf,
    disableTimer_disabled hinit, State.not_deliverable_of_not_pending hovf, hclksel, hctrl, hintctrl, hintflags,
    rfl, rfl, rfl, hinit, rfl, rfl, rfl, rfl, rfl⟩

end Sys2Proof.Machine
end

section
/-! SUPPORT. What `can_dispatch` is after `IRQ_GLOBAL` and `CB_RET` (R42, R140, R141): they write the interrupt
controller alone, so what is deliverable stays. -/

namespace Sys2Proof.Machine

@[simp] theorem State.anyDeliverable_with_irq (s : State) (q : Irq) :
    ({ s with irq := q } : State).anyDeliverable = s.anyDeliverable := rfl

/-- The operand takes the place of `GIE`; whether a callback runs still counts (R140). -/
theorem State.canDispatch_with_setGie (s : State) (en : Bool) :
    ({ s with irq := s.irq.setGie en } : State).canDispatch = (en && s.inMain && s.anyDeliverable) := by
  simp [State.canDispatch, State.inMain]

@[simp] theorem leaveCallback_inMain (s : State) : (leaveCallback s).inMain = true := by
  simp [State.inMain]

@[simp] theorem leaveCallback_anyDeliverable (s : State) : (leaveCallback s).anyDeliverable = s.anyDeliverable := rfl

/-- In main context again, `GIE` and the flags alone decide (R141). -/
theorem leaveCallback_canDispatch (s : State) :
    (leaveCallback s).canDispatch = (s.irq.gie && s.anyDeliverable) := by
  simp [State.canDispatch]

end Sys2Proof.Machine
end

section
/-! The obligations about the interrupt controller's commands (R140, R141), from the laws of the bits they write. -/

namespace Sys2Proof.Machine

/-- Settles O22: `GIE` is one bit of `I_CTRL`, and the command writes no other. -/
theorem irqGlobalResult : Obligations.IrqGlobalResult := by
  intro en s
  exact ⟨_, exec_irqGlobal en s, gie_setGie s.irq en, extract_putBit_of_outside _ _ _ _ _ (by decide) (by decide),
    rfl, s.canDispatch_with_setGie en, rfl, rfl, rfl, rfl, rfl⟩

/-- Settles O23: a running callback is left, which writes `SRC` alone; with none running the return is refused. -/
theorem cbRetResult : Obligations.CbRetResult := by
  intro s
  refine ⟨fun hsrc => ?_, (exec_cbRet_refused_iff s).mpr⟩
  exact ⟨_, exec_cbRet_next.mpr ⟨hsrc, rfl⟩, src_setSrc s.irq 0, leaveCallback_inMain s,
    extract_putField_of_outside _ _ _ _ _ (by decide) (by decide), rfl, leaveCallback_canDispatch s,
    rfl, rfl, rfl, rfl, rfl⟩

end Sys2Proof.Machine
end

section
/-! SUPPORT. The small lemmas the obligations about hardware events need (R150 to R155): the step at a turn that is not
the engine's, each event case by case, the number of 1s of a byte, and the counts of a running timer in a row. -/

namespace Sys2Proof.Machine

/-! ### The step at a turn of the hardware, at the dispatcher's, and with none left (R155, R174, R176) -/

section
variable {s : State} {rest : List Turn}

/-- A turn that does not wait is used up. -/
theorem State.afterTurn_of_turn {turn : Turn} (hturns : s.turns = turn :: rest) (hholds : s.holds = false) :
    s.afterTurn = { s with turns := rest } := by
  rw [State.afterTurn_of_not_holds hholds, hturns, List.tail_cons]

theorem State.afterTurn_of_hardware {e : HwEvent} (hturns : s.turns = .hardware e :: rest) :
    s.afterTurn = { s with turns := rest } :=
  State.afterTurn_of_turn hturns (by simp only [State.holds, hturns])

theorem State.afterTurn_of_dispatcher {src : Source} (hturns : s.turns = .dispatcher src :: rest) :
    s.afterTurn = { s with turns := rest } :=
  State.afterTurn_of_turn hturns (by simp only [State.holds, hturns])

theorem State.afterTurn_of_no_turn (hturns : s.turns = []) : s.afterTurn = s := by
  have hholds : s.holds = false := by simp only [State.holds, hturns]
  rw [State.afterTurn_of_not_holds hholds, hturns, List.tail_nil, ← hturns]

theorem State.action_of_hardware {p : Params} {e : HwEvent} (hturns : s.turns = .hardware e :: rest) :
    s.action p = .event e := by
  simp only [State.action, hturns]

theorem State.action_of_dispatcher {p : Params} {src : Source} (hturns : s.turns = .dispatcher src :: rest) :
    s.action p = if s.dispatchable p src then .dispatch src else .idle := by
  simp only [State.action, hturns]

theorem State.action_of_no_turn {p : Params} (hturns : s.turns = []) : s.action p = .idle := by
  simp only [State.action, hturns]

end

/-! ### The receiver and the transmitter (R150 to R152) -/

section
variable {s : State}

theorem rxStart_of_accepted (hrxen : s.uart.rxen = true) (hbusy : s.uart.rxBusy = false) :
    rxStart s = { s with uart := { s.uart with rxBusy := true } } := by
  simp [rxStart, hrxen, hbusy]

theorem rxStart_of_not_accepted (h : s.uart.rxen = false ∨ s.uart.rxBusy = true) : rxStart s = s := by
  rcases h with h | h <;> simp [rxStart, h]

theorem rxComplete_of_busy (b : Byte) (hbusy : s.uart.rxBusy = true) :
    rxComplete b s =
      { s with
        uart := { s.uart with rxBusy := false, rxdata := if s.uart.chsize then b else sevenBits b }.setRxc true } :=
  if_pos hbusy

theorem rxComplete_of_idle (b : Byte) (hbusy : s.uart.rxBusy = false) : rxComplete b s = s := by
  simp [rxComplete, hbusy]

/-- With the transmitter disabled nothing is sent. -/
theorem txDrain_of_disabled (htxen : s.uart.txen = false) : txDrain s = s := by
  simp [txDrain, htxen]

end

/-! ### The parity bit (R153) -/

/-- The number of 1s is the sum of the eight bits. -/
theorem popcount_eq_sum (d : Byte) :
    popcount d = (d.getLsbD 0).toNat + (d.getLsbD 1).toNat + (d.getLsbD 2).toNat + (d.getLsbD 3).toNat +
      (d.getLsbD 4).toNat + (d.getLsbD 5).toNat + (d.getLsbD 6).toNat + (d.getLsbD 7).toNat := by
  simp only [popcount, List.range_succ, List.range_zero, List.countP_append, List.countP_nil, List.countP_singleton,
    Bool.toNat, Bool.cond_eq_ite, Nat.zero_add]

/-- The bit of even parity as a number. -/
theorem toNat_evenBit (n : Nat) : (BitVec.ofNat 1 (n % 2)).toNat = n % 2 := by
  rw [BitVec.toNat_ofNat]; omega

/-- The bit of odd parity as a number. -/
theorem toNat_oddBit (n : Nat) : (BitVec.ofNat 1 (1 - n % 2)).toNat = 1 - n % 2 := by
  rw [BitVec.toNat_ofNat]; omega

/-! ### One count, and counts in a row (R154) -/

section
variable {t : Timer}

theorem countTimer_of_reached (hrun : t.run = true) (hper : t.cnt + 1 = t.per) :
    countTimer t = { t with cnt := 0 }.setOvf true := by
  rw [countTimer, if_pos hrun, if_pos hper]

theorem countTimer_of_not_reached (hrun : t.run = true) (hper : t.cnt + 1 ≠ t.per) :
    countTimer t = { t with cnt := t.cnt + 1 } := by
  rw [countTimer, if_pos hrun, if_neg hper]

theorem countTimer_of_stopped (hrun : t.run = false) : countTimer t = t := by
  simp [countTimer, hrun]

theorem countTimer_iterate_run (n : Nat) (t : Timer) : (countTimer^[n] t).run = t.run := by
  induction n with
  | zero => rfl
  | succ n ih => rw [Function.iterate_succ_apply', countTimer_run, ih]

theorem countTimer_iterate_per (n : Nat) (t : Timer) : (countTimer^[n] t).per = t.per := by
  induction n with
  | zero => rfl
  | succ n ih => rw [Function.iterate_succ_apply', countTimer_per, ih]

/-- Fewer counts than the period, from 0, never compare equal: the counter holds their number, the flag is kept. -/
theorem countTimer_iterate_below_period (hrun : t.run = true) (hcnt : t.cnt = 0) {n : Nat} (hn : n < t.per.toNat) :
    (countTimer^[n] t).cnt.toNat = n ∧ (countTimer^[n] t).ovf = t.ovf := by
  induction n with
  | zero => exact ⟨congrArg BitVec.toNat hcnt, rfl⟩
  | succ n ih =>
    obtain ⟨hcount, hflag⟩ := ih (by omega)
    have hmod : (n + 1) % 65536 = n + 1 := Nat.mod_eq_of_lt (hn.trans t.per.isLt)
    have hmiss : (countTimer^[n] t).cnt + 1 ≠ (countTimer^[n] t).per := by
      rw [Ne, increment_eq_iff, countTimer_iterate_per, hcount, hmod]
      omega
    rw [Function.iterate_succ_apply', countTimer_of_not_reached ((countTimer_iterate_run n t).trans hrun) hmiss]
    refine ⟨?_, hflag⟩
    calc ((countTimer^[n] t).cnt + 1).toNat
      _ = ((countTimer^[n] t).cnt.toNat + 1) % 65536 := BitVec.toNat_add _ _
      _ = n + 1 := by rw [hcount, hmod]

/-- The last count of the period compares equal. -/
theorem countTimer_iterate_period (hrun : t.run = true) (hcnt : t.cnt = 0) (hper : t.per ≠ 0) :
    (countTimer^[t.per.toNat] t).cnt = 0 ∧ (countTimer^[t.per.toNat] t).ovf = true := by
  obtain ⟨m, hm⟩ : ∃ m, t.per.toNat = m + 1 :=
    Nat.exists_eq_succ_of_ne_zero fun h => hper (BitVec.eq_of_toNat_eq h)
  obtain ⟨hcount, -⟩ := countTimer_iterate_below_period hrun hcnt (n := m) (by omega)
  have hreached : (countTimer^[m] t).cnt + 1 = (countTimer^[m] t).per := by
    rw [increment_eq_iff, countTimer_iterate_per, hcount, hm]
    exact Nat.mod_eq_of_lt (hm ▸ t.per.isLt)
  rw [hm, Function.iterate_succ_apply', countTimer_of_reached ((countTimer_iterate_run m t).trans hrun) hreached]
  exact ⟨rfl, ovf_setOvf _ true⟩

end

end Sys2Proof.Machine
end

section
/-! The obligations about hardware events (R150 to R155), from the laws of each event. -/

namespace Sys2Proof.Machine

/-- Settles O29: induction on the counts below the period; the next count compares equal. -/
theorem counterReachesPeriodExactly : Obligations.CounterReachesPeriodExactly := by
  intro t hrun hcnt hper hovf
  obtain ⟨hzero, hflag⟩ := countTimer_iterate_period hrun hcnt hper
  refine ⟨fun n hn => ?_, hzero, hflag, (countTimer_iterate_run _ t).trans hrun⟩
  obtain ⟨hcount, hkept⟩ := countTimer_iterate_below_period hrun hcnt hn
  exact ⟨hcount, hkept.trans hovf⟩

/-- Settles O7: what each turn comes to, in the state whose turn is used up. -/
theorem stepPerformsEventsAndDispatches : Obligations.StepPerformsEventsAndDispatches := by
  intro s rest
  refine ⟨fun e hturns => ?_, fun src hturns hyes => ?_, fun src hturns hno => ?_, fun hturns => ?_⟩
  · simp only [step, State.action_of_hardware hturns, State.afterTurn_of_hardware hturns]
  · simp only [step, State.action_of_dispatcher hturns, State.afterTurn_of_dispatcher hturns, hyes, if_true]
  · simp only [step, State.action_of_dispatcher hturns, State.afterTurn_of_dispatcher hturns, hno,
      Bool.false_eq_true, if_false]
  · simp only [step, State.action_of_no_turn hturns, State.afterTurn_of_no_turn hturns]

/-- Settles O24: the two cases of `rxStart`. -/
theorem rxStartResult : Obligations.RxStartResult := fun _ => ⟨rxStart_of_accepted, rxStart_of_not_accepted⟩

/-- Settles O25: an accepted character writes `U_RXDATA`, `RX_BUSY` and the bit `RXC` of `U_STATUS`. -/
theorem rxCompleteResult : Obligations.RxCompleteResult := by
  intro b s t
  refine ⟨fun hbusy => ?_, rxComplete_of_idle b⟩
  have ht : t = _ := rxComplete_of_busy b hbusy
  rw [ht]
  have hdata : (if s.uart.chsize then b else sevenBits b).toNat = if s.uart.chsize then b.toNat else b.toNat % 128 := by
    rw [apply_ite BitVec.toNat, sevenBits_toNat]
  exact ⟨hdata, rxc_setRxc _ true, rfl, txe_setRxc _ true, status_reserved_putBit _ _ _ (by decide),
    rfl, rfl, rfl, rfl, rfl, rfl, rfl, rfl, rfl, rfl⟩

/-- Settles O26: a byte sent writes the bit `TXE` of `U_STATUS` alone. -/
theorem txDrainResult : Obligations.TxDrainResult := by
  intro s t
  refine ⟨fun htxe htxen => ?_, fun h => h.elim txDrain_of_free txDrain_of_disabled⟩
  have ht : t = _ := txDrain_of_waiting htxe htxen
  rw [ht]
  exact ⟨⟨lineData s.uart, lineData_toNat s.uart, rfl⟩, txe_setTxe _ true, rxc_setTxe _ true,
    status_reserved_putBit _ _ _ (by decide), rfl, rfl, rfl, rfl, rfl, rfl, rfl, rfl, rfl, rfl, rfl⟩

/-- Settles O27: `popcount` is the sum of the bits, and the parity bit is its remainder or the complement of that. -/
theorem parityBitMakesParity : Obligations.ParityBitMakesParity := by
  intro d free
  dsimp only
  rw [← popcount_eq_sum d]
  refine ⟨rfl, ⟨_, rfl, ?_⟩, ⟨_, rfl, ?_⟩⟩
  · rw [toNat_evenBit]; omega
  · rw [toNat_oddBit]; omega

/-- Settles O28: the three cases of a count, and the fields no count writes. -/
theorem tclkResult : Obligations.TclkResult := by
  intro s t n
  have ht : t.timer = countTimer s.timer := rfl
  rw [ht]
  refine ⟨fun hrun hn => ?_, fun hrun hn => ?_, fun hrun => ?_, countTimer_intflags_reserved _, countTimer_cfg _,
    countTimer_ctrl _, countTimer_intctrl _, countTimer_per _, countTimer_tInit _, rfl, rfl, rfl, rfl, rfl⟩
  · rw [countTimer_of_reached hrun ((increment_eq_iff _ _).mpr hn)]
    exact ⟨rfl, ovf_setOvf _ true⟩
  · rw [countTimer_of_not_reached hrun (mt (increment_eq_iff _ _).mp hn)]
    exact ⟨BitVec.toNat_add _ _, rfl⟩
  · show { s with timer := countTimer s.timer } = s
    rw [countTimer_of_stopped hrun]

end Sys2Proof.Machine
end

section
/-! SUPPORT. The small lemmas the obligations about expiries along a run need (R154, R180): what a command and the
timer's own dispatch do to the count of expiries, how the turns list the `TCLK`s used, and the two properties of the
timer that a run without `TIMER_INIT` or without `TIMER_ENABLE` keeps. -/

namespace Sys2Proof.Machine

/-! ### How many expiries are emitted -/

/-- No command emits an `onTimerExpired` (R90, R91). -/
theorem exec_expiries {i : Instr} {s t : State} (h : exec i s = .next t) : expiries t.trace = expiries s.trace := by
  have hnone : expiries (commandOutputs s i) = 0 := expiries_actionOutputs s (a := .command i) nofun
  rw [exec_trace h]
  simp only [expiries, List.count_append] at hnone ⊢
  rw [hnone, Nat.add_zero]

/-- The timer's own dispatch emits one (R91, R174). -/
theorem step_expiries_of_dispatch {s t : State} (h : step s = .next t)
    (ha : s.action Config.params = .dispatch .tmr) : expiries t.trace = expiries s.trace + 1 := by
  rw [step_trace h, ha]
  simp [actionOutputs, expiries]

/-- No flag, no dispatch (R42, R174). -/
theorem action_ne_dispatch_of_not_pending {s : State} {p : Params} {src : Source} (h : s.pending src = false) :
    s.action p ≠ .dispatch src := by
  intro ha
  obtain ⟨-, hdel⟩ := State.dispatchable_imp (State.action_dispatch ha)
  rw [State.not_deliverable_of_not_pending h] at hdel
  cases hdel

/-! ### With a zero period (R122 (c)) -/

/-- `TIMER_ENABLE` unmasks nothing while `T_CFG` is 0, and nothing else unmasks. -/
theorem step_keeps_masked_of_zero {s t : State} (h : step s = .next t) (hcfg : s.timer.cfg = 0)
    (hmask : s.timer.ovie = false) : t.timer.ovie = false := by
  rw [step_ovie h]
  split
  case h_1 => simp [hmask, hcfg]
  case h_5 => exact hmask
  all_goals rfl

/-! ### Between two `TIMER_ENABLE` commands -/

/-- With `n` expiries to begin with, none has come, or one has and the timer is masked (R174). -/
def State.ExpiredAtMostOnce (n : Nat) (s : State) : Prop :=
  expiries s.trace = n ∨ (expiries s.trace = n + 1 ∧ s.timer.ovie = false)

theorem step_keeps_expiredAtMostOnce {n : Nat} {s t : State} (hs : s.ExpiredAtMostOnce n) (h : step s = .next t)
    (hno : s.action Config.params ≠ .command .timerEnable) : t.ExpiredAtMostOnce n := by
  rcases hs with hcount | ⟨hcount, hmask⟩
  · by_cases ha : s.action Config.params = .dispatch .tmr
    · refine .inr ⟨(step_expiries_of_dispatch h ha).trans (congrArg (· + 1) hcount), ?_⟩
      rw [step_ovie h, ha]
    · exact .inl ((step_expiries h ha).trans hcount)
  · have hmasked := action_ne_dispatch_of_masked (p := Config.params) (src := .tmr) hmask
    exact .inr ⟨(step_expiries h hmasked).trans hcount, step_keeps_masked h hmask hno⟩

/-! ### The `TCLK`s used -/

/-- No step lists a `TCLK` anew. -/
theorem step_tclks_le {s t : State} (h : step s = .next t) : tclks t.turns ≤ tclks s.turns := by
  rcases step_turns h with hsame | htail
  · rw [hsame]
  · rw [htail]; exact (List.tail_sublist s.turns).count_le _

/-- A step that is a `TCLK` uses it up. -/
theorem step_tclks_of_tclk {s t : State} (h : step s = .next t) (ha : s.action Config.params = .event .tclk) :
    tclks s.turns = tclks t.turns + 1 := by
  obtain ⟨rest, hturns⟩ := State.action_event ha
  have hstep : step s = .next (hwEvent .tclk { s with turns := rest }) :=
    (stepPerformsEventsAndDispatches s rest).1 .tclk hturns
  rw [hstep] at h
  cases h
  simp [hturns, tclks, hwEvent, tclk]

/-! ### Before the period has elapsed (R154) -/

/-- The timer has the period `P` and no overflow pending, and its counter holds no more than the number of `TCLK`s
used of the `total` listed to begin with. -/
structure State.Counting (P : Half) (total : Nat) (s : State) : Prop where
  per : s.timer.per = P
  ovf : s.timer.ovf = false
  used : s.timer.cnt.toNat + tclks s.turns ≤ total

section
variable {P : Half} {total : Nat} {s t : State}

/-- A count below the period compares unequal, so the flag stays 0. -/
theorem step_keeps_counting_of_tclk (hs : s.Counting P total) (h : step s = .next t)
    (ha : s.action Config.params = .event .tclk) (hbelow : total < P.toNat + tclks t.turns) :
    t.Counting P total := by
  obtain ⟨hper, hovf, hused⟩ := hs
  have hone := step_tclks_of_tclk h ha
  have hmax := P.isLt
  have hmod : (s.timer.cnt.toNat + 1) % 65536 = s.timer.cnt.toNat + 1 := Nat.mod_eq_of_lt (by omega)
  have hmiss : s.timer.cnt + 1 ≠ s.timer.per := by
    rw [Ne, increment_eq_iff, hper, hmod]
    omega
  have htimer : t.timer = countTimer s.timer := by rw [step_timer h, ha]
  cases hrun : s.timer.run with
  | false =>
    rw [countTimer_of_stopped hrun] at htimer
    exact ⟨htimer ▸ hper, htimer ▸ hovf, by rw [htimer]; omega⟩
  | true =>
    rw [countTimer_of_not_reached hrun hmiss] at htimer
    have hcnt : t.timer.cnt.toNat = s.timer.cnt.toNat + 1 := by
      rw [htimer]
      exact (BitVec.toNat_add _ _).trans hmod
    exact ⟨htimer ▸ hper, htimer ▸ hovf, by omega⟩

/-- Every other step but `TIMER_ENABLE` leaves the period and the counter, and sets no flag. -/
theorem step_keeps_counting_of_other (hs : s.Counting P total) (h : step s = .next t)
    (hno : s.action Config.params ≠ .command .timerEnable) (ha : s.action Config.params ≠ .event .tclk) :
    t.Counting P total := by
  obtain ⟨hper, hovf, hused⟩ := hs
  refine ⟨?_, ?_, ?_⟩
  · rw [step_per h]
    split
    case h_1 henable => exact absurd henable hno
    case h_2 => exact hper
  · rw [step_ovf h]
    split
    case h_1 htclk => exact absurd htclk ha
    case h_5 => exact hovf
    all_goals rfl
  · have hcnt : t.timer.cnt = s.timer.cnt := by
      rw [step_cnt h]
      split
      case h_1 henable => exact absurd henable hno
      case h_2 htclk => exact absurd htclk ha
      case h_3 => rfl
    have hle := step_tclks_le h
    rw [hcnt]
    omega

theorem step_keeps_counting (hs : s.Counting P total) (h : step s = .next t)
    (hno : s.action Config.params ≠ .command .timerEnable) (hbelow : total < P.toNat + tclks t.turns) :
    t.Counting P total := by
  by_cases ha : s.action Config.params = .event .tclk
  · exact step_keeps_counting_of_tclk hs h ha hbelow
  · exact step_keeps_counting_of_other hs h hno ha

/-- With no overflow pending the step is no expiry. -/
theorem State.Counting.step_expiries (hs : s.Counting P total) (h : step s = .next t) :
    expiries t.trace = expiries s.trace :=
  Machine.step_expiries h (action_ne_dispatch_of_not_pending (src := .tmr) hs.ovf)

end

/-- `TIMER_ENABLE` with a nonzero period starts the count (R122). -/
theorem exec_timerEnable_counting {s t : State} (h : exec .timerEnable s = .next t) (hcfg : s.timer.cfg ≠ 0)
    (hovf : s.timer.ovf = false) : t.Counting s.timer.cfg (tclks t.turns) := by
  obtain ⟨-, rfl⟩ := exec_timerEnable_next.mp h
  exact
    { per := (enableTimer_per _ _).trans (if_pos hcfg)
      ovf := (enableTimer_ovf _ _).trans hovf
      used := by
        have hcnt : (enableTimer Config.params s.timer).cnt = 0 := (enableTimer_cnt _ _).trans (if_pos hcfg)
        dsimp only
        rw [hcnt]
        exact (Nat.zero_add _).le }

end Sys2Proof.Machine
end

section
/-! The obligations about expiries along a run (R180, R211), each from a property of the timer that every step of the
run keeps. -/

namespace Sys2Proof.Machine

/-- Settles O52: `T_CFG` stays 0, so no `TIMER_ENABLE` unmasks the timer, and a masked timer does not expire. -/
theorem zeroTimeoutNeverExpires : Obligations.ZeroTimeoutNeverExpires := by
  intro s₀ s t k hinit hrun hno
  have hcount := exec_expiries hinit
  rw [exec_timerInit, next_eq_next] at hinit
  have hcfg : s.timer.cfg = 0 := by rw [hinit]; exact period_zero _ _
  have hmask : s.timer.ovie = false := by rw [hinit]; exact initTimer_ovie _ _ _ _
  have hkeeps := run_keeps_without (C := fun i => ∃ ticks, i = .timerInit ticks)
    (P := fun m => m.timer.cfg = 0 ∧ m.timer.ovie = false ∧ expiries m.trace = expiries s₀.trace)
    ?_ k s t ⟨hcfg, hmask, hcount⟩ hrun (by rintro _ ⟨ticks, rfl⟩; exact hno ticks)
  · exact hkeeps.2.2
  · rintro m n ⟨hzero, hmasked, hm⟩ hn hC
    exact ⟨(step_cfg hn fun ticks => hC _ ⟨ticks, rfl⟩).trans hzero, step_keeps_masked_of_zero hn hzero hmasked,
      (step_expiries hn (action_ne_dispatch_of_masked (src := .tmr) hmasked)).trans hm⟩

/-- Settles O53: the first expiry masks the timer, and without a `TIMER_ENABLE` it stays masked. -/
theorem atMostOneExpiryPerArming : Obligations.AtMostOneExpiryPerArming := by
  intro k s t hrun hno
  refine ⟨?_, fun hmask => (run_expiries_of_masked hrun hmask hno).2⟩
  have hkeeps : t.ExpiredAtMostOnce (expiries s.trace) :=
    run_keeps_without (C := (· = .timerEnable)) (fun _ _ hm hn hC => step_keeps_expiredAtMostOnce hm hn (hC _ rfl))
      k s t (.inl rfl) hrun (by rintro _ rfl; exact hno)
  rcases hkeeps with hcount | ⟨hcount, -⟩
  · omega
  · omega

/-- Settles O54: while fewer `TCLK`s than the period are used the count has not compared equal, so no overflow is
pending. A later state of the run has used no fewer, so the bound at the end of the run is one at each step. -/
theorem noExpiryBeforeThePeriod : Obligations.NoExpiryBeforeThePeriod := by
  intro s₀ s t k henable hcfg hovf hrun hno hbelow
  have hkeeps := run_keeps_without (C := (· = .timerEnable))
    (P := fun m => tclks s.turns < s₀.timer.cfg.toNat + tclks m.turns →
      m.Counting s₀.timer.cfg (tclks s.turns) ∧ expiries m.trace = expiries s₀.trace)
    ?_ k s t (fun _ => ⟨exec_timerEnable_counting henable hcfg hovf, exec_expiries henable⟩) hrun
    (by rintro _ rfl; exact hno)
  · exact (hkeeps hbelow).2
  · intro m n hm hn hC hlater
    obtain ⟨hcounting, hcount⟩ := hm (hlater.trans_le (Nat.add_le_add_left (step_tclks_le hn) _))
    exact ⟨step_keeps_counting hcounting hn (hC _ rfl) hlater, (hcounting.step_expiries hn).trans hcount⟩

end Sys2Proof.Machine
end

section
/-! SUPPORT. The small lemmas the obligations about dispatch and stops need (R171, R174 to R176): which source is
taken, the step at a word that waits and at a `TCLK`, and when a command stops. -/

namespace Sys2Proof.Machine

/-! ### Which source is taken (R174, R175) -/

section
variable {s : State} {p : Params} {src other : Source}

theorem State.dispatchable_iff :
    s.dispatchable p src = true ↔
      s.canDispatch = true ∧ s.deliverable src = true ∧ s.allowed p.irqOrder src = true := by
  simp only [State.dispatchable, Bool.and_eq_true, and_assoc]

/-- A sole deliverable source can be taken, whatever `IRQ_ORDER` is. -/
theorem State.dispatchable_of_sole (hgie : s.irq.gie = true) (hmain : s.irq.src = 0)
    (hsole : s.deliverables = [src]) : s.dispatchable p src = true := by
  have hdel : s.deliverable src = true := by
    rw [← s.mem_deliverables, hsole]
    exact List.mem_singleton_self src
  exact State.dispatchable_iff.mpr
    ⟨s.canDispatch_iff.mpr ⟨hgie, hmain, src, hdel⟩, hdel, by simp [State.allowed, hsole]⟩

/-- With `any`, every deliverable source can be taken. -/
theorem State.dispatchable_of_any (hcan : s.canDispatch = true) (horder : p.irqOrder = .any) :
    s.dispatchable p src = s.deliverable src := by
  rw [State.dispatchable, State.allowed_eq, hcan, horder, Bool.true_and, Bool.and_true]

/-- With a total order, the first deliverable source alone can be taken. -/
theorem State.dispatchable_of_total {o : Priority} (hcan : s.canDispatch = true) (horder : p.irqOrder = .total o)
    (hfirst : s.first o = some src) : s.dispatchable p other = true ↔ other = src := by
  simp only [State.dispatchable_iff, State.allowed_eq, horder, hfirst, beq_iff_eq, Option.some.injEq]
  constructor
  · rintro ⟨-, -, rfl⟩
    rfl
  · rintro rfl
    exact ⟨hcan, State.first_deliverable hfirst, rfl⟩

/-- The first deliverable source comes before every other deliverable one. -/
theorem State.idxOf_first_lt {o : Priority} (hfirst : s.first o = some src) (hne : other ≠ src)
    (hdel : s.deliverable other = true) : o.toList.idxOf src < o.toList.idxOf other := by
  obtain ⟨hsrc, front, back, hlist, hfront⟩ := List.find?_eq_some_iff_append.mp hfirst
  have hnot {x : Source} (hx : s.deliverable x = true) : x ∉ front := fun hmem => by simpa [hx] using hfront x hmem
  rw [hlist, List.idxOf_append_of_notMem (hnot hsrc), List.idxOf_append_of_notMem (hnot hdel), List.idxOf_cons_self,
    List.idxOf_cons_ne _ hne.symm]
  omega

/-- A dispatch acknowledges its own source alone (R174). -/
theorem enterCallback_deliverable_of_ne (h : other ≠ src) (s : State) :
    (enterCallback src s).deliverable other = s.deliverable other := by
  cases other with
  | txe => rfl
  | rx => rfl
  | tmr => simp [State.deliverable, State.pending, State.enabled, acknowledge_of_ne_tmr h.symm]

end

/-! ### The step at a word that waits, at a word in a callback, and at `TCLK`s -/

section
variable {s : State} {w : Word} {rest : List Turn}

/-- While `can_dispatch` holds, the engine's word waits for the dispatch of the source chosen (R176). -/
theorem step_of_waiting_word {src : Source} (hturns : s.turns = .engine w :: rest) (hcan : s.canDispatch = true)
    (hchosen : s.chosen Config.params = some src) :
    step s = .next (enterCallback src { s with freeCount := s.freeCount + 1 }) := by
  have haction : s.action Config.params = .dispatch src := by simp [State.action, hturns, hcan, hchosen]
  have hholds : s.holds = true := by simp only [State.holds, hturns, hcan]
  simp only [step, haction, State.afterTurn, hholds, if_true]

/-- An accepted word is executed or refused. -/
theorem step_of_accepted_word (hturns : s.turns = .engine w :: rest) (hno : s.canDispatch = false) :
    step s =
      match decode w with
      | .instr i => exec i { s with turns := rest }
      | .invalid _ => .refused .reservedEncoding := by
  cases hw : decode w with
  | instr i => exact stepRunsTheDecodedCommand s w rest i hturns hw hno
  | invalid why => exact (reservedWordsAreRefused w).2.1 ((exists_invalid_iff w).mp ⟨why, hw⟩) s rest hturns hno

end

theorem countTimer_iterate_ovie (n : Nat) (t : Timer) : (countTimer^[n] t).ovie = t.ovie := by
  induction n with
  | zero => rfl
  | succ n ih => rw [Function.iterate_succ_apply', countTimer_ovie, ih]

/-- A run of `TCLK`s counts as often, and does nothing else. -/
theorem run_of_tclks (n k : Nat) {s : State} {rest : List Turn}
    (hturns : s.turns = List.replicate n (.hardware .tclk) ++ rest) :
    run (n + k) s = run k { s with timer := countTimer^[n] s.timer, turns := rest } := by
  induction n generalizing s with
  | zero =>
    have hnone : s.turns = rest := hturns
    rw [← hnone, Nat.zero_add]
    rfl
  | succ n ih =>
    have hstep : step s = .next (tclk { s with turns := List.replicate n (.hardware .tclk) ++ rest }) :=
      (stepPerformsEventsAndDispatches s _).1 .tclk hturns
    rw [Nat.add_right_comm, run_succ_of_step hstep, ih rfl]
    rfl

/-! ### When a command stops, and with what (R171) -/

/-- CV2: a write to a register that is not free. -/
def WritesNotFree (i : Instr) (s : State) : Prop :=
  (∃ b, i = .serialWriteByte b) ∧ s.uart.uInit = true ∧ s.uart.txe = false

/-- CV1: a command of a component that is not initialised. -/
def UsedBeforeInit (i : Instr) (s : State) : Prop :=
  (s.uart.uInit = false ∧
    ((∃ rx tx, i = .serialSetEnabled rx tx) ∨ (∃ b, i = .serialWriteByte b) ∨ i = .serialReadByte)) ∨
  (s.timer.tInit = false ∧ (i = .timerEnable ∨ i = .timerDisable))

/-- CV4: a return in main context. -/
def ReturnsInMain (i : Instr) (s : State) : Prop := i = .cbRet ∧ s.irq.src = 0

section
variable {i : Instr} {s : State}

theorem exec_of_writesNotFree (h : WritesNotFree i s) : exec i s = .fault .writeNotFree := by
  obtain ⟨⟨b, rfl⟩, hinit, htxe⟩ := h
  exact exec_serialWriteByte_fault b hinit htxe

theorem exec_of_usedBeforeInit (h : UsedBeforeInit i s) : exec i s = .refused .useBeforeInit := by
  rcases h with ⟨hinit, hi⟩ | ⟨hinit, hi⟩
  · obtain ⟨hset, hwrite, hread⟩ := exec_serial_refused hinit
    rcases hi with ⟨rx, tx, rfl⟩ | ⟨b, rfl⟩ | rfl
    · exact hset rx tx
    · exact hwrite b
    · exact hread
  · obtain ⟨henable, hdisable⟩ := exec_timer_refused hinit
    rcases hi with rfl | rfl
    · exact henable
    · exact hdisable

theorem exec_of_returnsInMain (h : ReturnsInMain i s) : exec i s = .refused .returnInMain := by
  obtain ⟨rfl, hsrc⟩ := h
  exact (exec_cbRet_refused_iff s).mpr hsrc

/-- A command that stops for none of the three reasons answers a next state. -/
theorem exec_stops_or_next (i : Instr) (s : State) :
    WritesNotFree i s ∨ UsedBeforeInit i s ∨ ReturnsInMain i s ∨ ∃ t, exec i s = .next t := by
  cases i with
  | serialInit par dbits port baud => exact .inr (.inr (.inr ⟨_, rfl⟩))
  | serialSetEnabled rx tx =>
    cases hinit : s.uart.uInit with
    | false => exact .inr (.inl (.inl ⟨hinit, .inl ⟨rx, tx, rfl⟩⟩))
    | true => exact .inr (.inr (.inr ⟨_, exec_serialSetEnabled_next.mpr ⟨hinit, rfl⟩⟩))
  | serialWriteByte b =>
    cases hinit : s.uart.uInit with
    | false => exact .inr (.inl (.inl ⟨hinit, .inr (.inl ⟨b, rfl⟩)⟩))
    | true =>
      cases htxe : s.uart.txe with
      | false => exact .inl ⟨⟨b, rfl⟩, hinit, htxe⟩
      | true => exact .inr (.inr (.inr ⟨_, exec_serialWriteByte_next.mpr ⟨hinit, htxe, rfl⟩⟩))
  | serialReadByte =>
    cases hinit : s.uart.uInit with
    | false => exact .inr (.inl (.inl ⟨hinit, .inr (.inr rfl)⟩))
    | true => exact .inr (.inr (.inr ⟨_, exec_serialReadByte_next.mpr ⟨hinit, rfl⟩⟩))
  | timerInit ticks => exact .inr (.inr (.inr ⟨_, rfl⟩))
  | timerEnable =>
    cases hinit : s.timer.tInit with
    | false => exact .inr (.inl (.inr ⟨hinit, .inl rfl⟩))
    | true => exact .inr (.inr (.inr ⟨_, exec_timerEnable_next.mpr ⟨hinit, rfl⟩⟩))
  | timerDisable =>
    cases hinit : s.timer.tInit with
    | false => exact .inr (.inl (.inr ⟨hinit, .inr rfl⟩))
    | true => exact .inr (.inr (.inr ⟨_, exec_timerDisable_next.mpr ⟨hinit, rfl⟩⟩))
  | irqGlobal en => exact .inr (.inr (.inr ⟨_, rfl⟩))
  | cbRet =>
    by_cases hsrc : s.irq.src = 0
    · exact .inr (.inr (.inl ⟨rfl, hsrc⟩))
    · exact .inr (.inr (.inr ⟨_, exec_cbRet_next.mpr ⟨hsrc, rfl⟩⟩))

theorem exec_fault_iff {f : Fault} : exec i s = .fault f ↔ f = .writeNotFree ∧ WritesNotFree i s := by
  constructor
  · intro h
    rcases exec_stops_or_next i s with hstop | hstop | hstop | ⟨t, ht⟩
    · rw [exec_of_writesNotFree hstop] at h
      cases h
      exact ⟨rfl, hstop⟩
    · cases (exec_of_usedBeforeInit hstop).symm.trans h
    · cases (exec_of_returnsInMain hstop).symm.trans h
    · cases ht.symm.trans h
  · rintro ⟨rfl, hstop⟩
    exact exec_of_writesNotFree hstop

theorem exec_refused_iff {r : Refusal} :
    exec i s = .refused r ↔
      (r = .useBeforeInit ∧ UsedBeforeInit i s) ∨ (r = .returnInMain ∧ ReturnsInMain i s) := by
  constructor
  · intro h
    rcases exec_stops_or_next i s with hstop | hstop | hstop | ⟨t, ht⟩
    · cases (exec_of_writesNotFree hstop).symm.trans h
    · rw [exec_of_usedBeforeInit hstop] at h
      cases h
      exact .inl ⟨rfl, hstop⟩
    · rw [exec_of_returnsInMain hstop] at h
      cases h
      exact .inr ⟨rfl, hstop⟩
    · cases ht.symm.trans h
  · rintro (⟨rfl, hstop⟩ | ⟨rfl, hstop⟩)
    · exact exec_of_usedBeforeInit hstop
    · exact exec_of_returnsInMain hstop

end

/-- No command is refused as a reserved encoding: that refusal is the step's own (R89). -/
theorem exec_ne_reservedEncoding (i : Instr) (s : State) : exec i s ≠ .refused .reservedEncoding := by
  intro h
  rcases exec_refused_iff.mp h with ⟨hr, -⟩ | ⟨hr, -⟩
  · cases hr
  · cases hr

/-! ### Transmit enabled on an empty register (R102, R208) -/

section
variable {s : State} (p : Params) (rx : Bool)

theorem setEnabled_txeie (tx : Bool) (u : Uart) : (setEnabled p rx tx u).txeie = tx := by
  rw [Uart.txeie, (setEnabled_spec p rx tx u).1]
  exact (ctrlValue_bits rx true rx tx).2.2.2.1

/-- An empty register is deliverable once transmit is enabled. -/
theorem deliverable_txe_of_setEnabled (htxe : s.uart.txe = true) (turns : List Turn) :
    ({ s with uart := setEnabled p rx true s.uart, turns := turns } : State).deliverable .txe = true := by
  have hpending : (setEnabled p rx true s.uart).txe = true := (setEnabled_flags p rx true s.uart).2.1.trans htxe
  have henabled : (setEnabled p rx true s.uart).txeie = true := setEnabled_txeie p rx true s.uart
  rw [State.deliverable, Bool.and_eq_true]
  exact ⟨hpending, henabled⟩

/-- With no byte received and no overflow pending, the step makes nothing else deliverable. -/
theorem eq_txe_of_setEnabled_deliverable {tx : Bool} {turns : List Turn} {src : Source} (hrxc : s.uart.rxc = false)
    (hovf : s.timer.ovf = false)
    (hdel : ({ s with uart := setEnabled p rx tx s.uart, turns := turns } : State).deliverable src = true) :
    src = .txe := by
  obtain ⟨hpending, -⟩ := Bool.and_eq_true_iff.mp hdel
  cases src with
  | txe => rfl
  | rx =>
    have hrxc' : (setEnabled p rx tx s.uart).rxc = true := hpending
    rw [(setEnabled_flags p rx tx s.uart).1, hrxc] at hrxc'
    cases hrxc'
  | tmr => cases hovf.symm.trans hpending

end

end Sys2Proof.Machine
end

section
/-! The obligations about dispatch and stops (R171, R174 to R178, R180, R208). -/

namespace Sys2Proof.Machine

/-- Settles O8: the source chosen is one `IRQ_ORDER` allows; in a callback nothing can be dispatched. -/
theorem mainCommandWaitsForDispatch : Obligations.MainCommandWaitsForDispatch := by
  intro s w rest hturns
  refine ⟨fun hcan => ?_, fun hsrc => step_of_accepted_word hturns (s.canDispatch_of_callback hsrc)⟩
  obtain ⟨src, hchosen, hdisp⟩ := s.chosen_dispatchable Config.params hcan
  exact ⟨src, hdisp, step_of_waiting_word hturns hcan hchosen⟩

/-- Settles O31: the source taken with a total order is the first deliverable one. -/
theorem dispatchFollowsIrqOrder : Obligations.DispatchFollowsIrqOrder := by
  intro p s hcan
  refine ⟨fun horder src => State.dispatchable_of_any hcan horder, fun o horder => ?_,
    fun src other hne => enterCallback_deliverable_of_ne hne s⟩
  obtain ⟨-, -, hany⟩ := s.canDispatch_iff.mp hcan
  obtain ⟨src, hfirst⟩ := s.first_exists o hany
  refine ⟨src, (State.dispatchable_of_total hcan horder hfirst).mpr rfl, fun other hne => ⟨?_, ?_⟩⟩
  · exact Bool.eq_false_of_not_eq_true (mt (State.dispatchable_of_total hcan horder hfirst).mp hne)
  · exact State.idxOf_first_lt hfirst hne

/-- Settles O32: only `DISPATCH` emits a callback, and while one runs nothing is dispatched, so `CB_RET` alone is left
to write `SRC`. -/
theorem callbacksNeverNest : Obligations.CallbacksNeverNest := by
  intro s t h
  constructor
  · by_cases hdispatch : ∃ src, s.action Config.params = .dispatch src
    · obtain ⟨src, ha⟩ := hdispatch
      have hdisp := State.action_dispatch ha
      obtain ⟨hcan, hdel⟩ := State.dispatchable_imp hdisp
      obtain ⟨hgie, hmain, -⟩ := s.canDispatch_iff.mp hcan
      exact .inr ⟨src, ha, hdisp, hgie, hmain, hdel, by rw [step_irq h, ha]; exact src_setSrc _ _,
        by rw [step_trace h, ha]; rfl⟩
    · have hno : ∀ src, s.action Config.params ≠ .dispatch src := fun src ha => hdispatch ⟨src, ha⟩
      exact .inl ⟨hno, step_callbacks h hno⟩
  · intro hsrc
    rw [step_src h]
    split
    case h_4 ha => exact .inr ⟨ha, rfl⟩
    case h_5 => exact .inl rfl
    all_goals
      rename_i ha
      exact absurd ha (action_ne_dispatch _ (.inr hsrc))

/-- Settles O35: when a command stops is `exec_stops_or_next`; a reserved word is refused by the step itself. -/
theorem stopsAreTheContractViolations : Obligations.StopsAreTheContractViolations := by
  refine ⟨fun i s f => exec_fault_iff, fun i s r => ?_, fun s hinit hrxc => ?_, fun s w rest hturns hno => ?_,
    fun s rest => ⟨fun e hturns => ?_, fun src hturns => ?_⟩⟩
  · rw [exec_refused_iff, UsedBeforeInit, ReturnsInMain, and_or_left, or_assoc]
  · exact ⟨_, exec_serialReadByte_of_absent hinit hrxc, fun c => mem_insertCode .cv3 c s.cvLog, rfl⟩
  · refine ⟨fun h => ?_, fun hw => (reservedWordsAreRefused w).2.1 hw s rest hturns hno⟩
    rw [step_of_accepted_word hturns hno] at h
    split at h
    case h_1 i hi => exact absurd h (exec_ne_reservedEncoding i _)
    case h_2 why hwhy => exact (exists_invalid_iff w).mp ⟨why, hwhy⟩
  · exact ⟨_, (stepPerformsEventsAndDispatches s rest).1 e hturns⟩
  · obtain ⟨-, hyes, hno, -⟩ := stepPerformsEventsAndDispatches s rest
    cases hdisp : s.dispatchable Config.params src with
    | true => exact ⟨_, hyes src hturns hdisp⟩
    | false => exact ⟨_, hno src hturns hdisp⟩

/-- Settles O55: the `P`-th count sets the flag, which makes the timer the sole deliverable source, and its dispatch
clears the flag and the enable bit. -/
theorem expiryIsDeliveredAtThePeriod : Obligations.ExpiryIsDeliveredAtThePeriod := by
  intro s rest harmed hovf hcnt hper hgie hmain htxe hrx hturns
  obtain ⟨hrun, hovie⟩ := Bool.and_eq_true_iff.mp harmed
  obtain ⟨hzero, hflag⟩ := countTimer_iterate_period hrun hcnt hper
  set n := s.timer.per.toNat
  set m : State := { s with timer := countTimer^[n] s.timer, turns := .dispatcher .tmr :: rest } with hm
  have htmr : m.deliverable .tmr = true :=
    Bool.and_eq_true_iff.mpr ⟨hflag, (countTimer_iterate_ovie n s.timer).trans hovie⟩
  have hsole : m.deliverables = [.tmr] := by
    have htxe' : m.deliverable .txe = false := htxe
    have hrx' : m.deliverable .rx = false := hrx
    simp [State.deliverables, htxe', hrx', htmr]
  have hstep : step m = .next (enterCallback .tmr { m with turns := rest }) :=
    (stepPerformsEventsAndDispatches m rest).2.1 .tmr rfl (State.dispatchable_of_sole hgie hmain hsole)
  refine ⟨_, (run_of_tclks n 1 hturns).trans (run_succ_of_step hstep), rfl, ?_, ?_, hzero, src_setSrc _ _, rfl, rfl⟩
  · simp [Timer.disabledEquivalent, hm, countTimer_iterate_run, hrun]
  · simp

/-- Settles O56: the command leaves the empty register the sole deliverable source, and the next word waits for its
dispatch. -/
theorem transmitEnableFiresAtOnce : Obligations.TransmitEnableFiresAtOnce := by
  intro s w next rest rx hturns hw hno hinit htxe hrxc hovf hgie hmain
  set m : State := { s with uart := setEnabled Config.params rx true s.uart, turns := .engine next :: rest }
  have hfirst : step s = .next m := by
    rw [stepRunsTheDecodedCommand s w _ _ hturns hw hno]
    exact exec_serialSetEnabled_next.mpr ⟨hinit, rfl⟩
  have hcan : m.canDispatch = true :=
    m.canDispatch_iff.mpr ⟨hgie, hmain, .txe, deliverable_txe_of_setEnabled _ rx htxe _⟩
  obtain ⟨src, hdisp, hsecond⟩ := (mainCommandWaitsForDispatch m next rest rfl).1 hcan
  obtain ⟨-, hdel⟩ := State.dispatchable_imp hdisp
  obtain rfl := eq_txe_of_setEnabled_deliverable _ rx hrxc hovf hdel
  exact ⟨_, (run_succ_of_step hfirst).trans (run_succ_of_step hsecond), rfl, src_setSrc _ _, rfl⟩

/-- Settles O30: `acknowledge_spec` says what becomes of the timer; beside it `SRC` and the trace are written. -/
theorem dispatchEntersTheCallback : Obligations.DispatchEntersTheCallback := by
  intro src s t
  obtain ⟨hovf, hovie, hintctrl, hintflags, hcfg, hctrl, hper, hcnt, htInit⟩ := acknowledge_spec src s.timer
  have hsrc : t.irq.src = src.number := src_setSrc _ _
  refine ⟨?_, extract_putField_of_outside _ _ _ _ _ (by decide) (by decide), rfl, rfl, ?_,
    fun hne => acknowledge_of_ne_tmr hne s.timer, hintflags, hintctrl, hcfg, hctrl, hper, hcnt, htInit, rfl, rfl, rfl⟩
  · rw [hsrc]
    cases src <;> rfl
  · rintro rfl
    exact ⟨hovf.trans (Bool.and_false _), hovie.trans (Bool.and_false _)⟩

end Sys2Proof.Machine
end

section
/-! SUPPORT. What reset and the hazards of reception need: a whole character as one operation on the Serial Transport
(R150, R151), `RX_BUSY` after a set-enabled command (R102), when no hardware event is enabled (R150 to R154), and which
commands answer at reset (R201). -/

namespace Sys2Proof.Machine

/-! ### A character received (R150, R151) -/

/-- The Serial Transport after the character `b` has been received: the byte is stored whatever was pending. -/
def Uart.receive (b : Byte) (u : Uart) : Uart :=
  { u with rxBusy := false, rxdata := if u.chsize then b else sevenBits b }.setRxc true

@[simp] theorem Uart.receive_rxc (b : Byte) (u : Uart) : (u.receive b).rxc = true := rxc_setRxc _ true
@[simp] theorem Uart.receive_rxen (b : Byte) (u : Uart) : (u.receive b).rxen = u.rxen := rfl
@[simp] theorem Uart.receive_uInit (b : Byte) (u : Uart) : (u.receive b).uInit = u.uInit := rfl

theorem Uart.receive_rxdata_toNat (b : Byte) (u : Uart) :
    (u.receive b).rxdata.toNat = if u.chsize then b.toNat else b.toNat % 128 := by
  show (if u.chsize then b else sevenBits b).toNat = _
  rw [apply_ite BitVec.toNat, sevenBits_toNat]

/-- The overrun: the later character overwrites the earlier one, and `RXC` stays 1 (R151 (a)). -/
theorem Uart.receive_receive (b₁ b₂ : Byte) (u : Uart) : (u.receive b₁).receive b₂ = u.receive b₂ := by
  simp [Uart.receive, Uart.setRxc, Uart.chsize]

/-- With reception enabled a start and a completion receive the character, even if one was in reception before. -/
theorem rxComplete_rxStart {s : State} (b : Byte) (hrxen : s.uart.rxen = true) :
    rxComplete b (rxStart s) = { s with uart := s.uart.receive b } := by
  cases hbusy : s.uart.rxBusy with
  | false => rw [rxStart_of_accepted hrxen hbusy]; exact rxComplete_of_busy b rfl
  | true => rw [rxStart_of_not_accepted (.inr hbusy)]; exact rxComplete_of_busy b hbusy

/-- A character in reception survives a `SERIAL_SET_ENABLED` only if that leaves reception enabled (R102 (c)). -/
theorem exec_serialSetEnabled_rxBusy {rx tx : Bool} {s t : State} (h : exec (.serialSetEnabled rx tx) s = .next t) :
    t.uart.rxBusy = (s.uart.rxBusy && rx) := by
  obtain ⟨-, rfl⟩ := exec_serialSetEnabled_next.mp h
  exact (setEnabled_spec _ rx tx s.uart).2.1

/-! ### No hardware event enabled (R150 to R154) -/

theorem tclk_of_stopped {s : State} (hrun : s.timer.run = false) : tclk s = s := by
  rw [tclk, countTimer_of_stopped hrun]

/-- With reception disabled and idle, nothing to send and the timer stopped, no hardware event changes anything. -/
theorem hwEvent_of_quiet {s : State} (hrxen : s.uart.rxen = false) (hbusy : s.uart.rxBusy = false)
    (htxe : s.uart.txe = true) (hrun : s.timer.run = false) (e : HwEvent) : hwEvent e s = s := by
  cases e with
  | rxStart => exact rxStart_of_not_accepted (.inl hrxen)
  | rxComplete b => exact rxComplete_of_idle b hbusy
  | txDrain => exact txDrain_of_free htxe
  | tclk => exact tclk_of_stopped hrun

/-! ### Commands at reset (R171, R201) -/

/-- The three commands that need no initialisation and no callback. -/
def RunsAtReset (i : Instr) : Prop :=
  (∃ par dbits port baud, i = .serialInit par dbits port baud) ∨ (∃ ticks, i = .timerInit ticks) ∨
    ∃ en, i = .irqGlobal en

/-- At reset those three answer; the others are refused, since no component is initialised and no callback runs. -/
theorem exec_reset_next_or_refused (i : Instr) :
    (RunsAtReset i ∧ ∃ t, exec i State.reset = .next t) ∨
      (¬RunsAtReset i ∧ ∃ r, exec i State.reset = .refused r) := by
  obtain ⟨hset, hwrite, hread⟩ := exec_serial_refused (s := State.reset) rfl
  obtain ⟨henable, hdisable⟩ := exec_timer_refused (s := State.reset) rfl
  cases i with
  | serialInit par dbits port baud => exact .inl ⟨.inl ⟨par, dbits, port, baud, rfl⟩, _, rfl⟩
  | serialSetEnabled rx tx => exact .inr ⟨by simp [RunsAtReset], _, hset rx tx⟩
  | serialWriteByte b => exact .inr ⟨by simp [RunsAtReset], _, hwrite b⟩
  | serialReadByte => exact .inr ⟨by simp [RunsAtReset], _, hread⟩
  | timerInit ticks => exact .inl ⟨.inr (.inl ⟨ticks, rfl⟩), _, rfl⟩
  | timerEnable => exact .inr ⟨by simp [RunsAtReset], _, henable⟩
  | timerDisable => exact .inr ⟨by simp [RunsAtReset], _, hdisable⟩
  | irqGlobal en => exact .inl ⟨.inr (.inr ⟨en, rfl⟩), _, rfl⟩
  | cbRet => exact .inr ⟨by simp [RunsAtReset], _, (exec_cbRet_refused_iff State.reset).mpr rfl⟩

end Sys2Proof.Machine
end

section
/-! The obligations about reset and the hazards of reception (R201, R206, R209). -/

namespace Sys2Proof.Machine

/-- Settles O57: the disable clears `RX_BUSY` and the enable does not set it, so no completion is accepted. -/
theorem disableDiscardsTheCharacterInReception : Obligations.DisableDiscardsTheCharacterInReception := by
  intro s t u tx tx' b ht hu
  have htbusy : t.uart.rxBusy = false := by rw [exec_serialSetEnabled_rxBusy ht, Bool.and_false]
  have hubusy : u.uart.rxBusy = false := by rw [exec_serialSetEnabled_rxBusy hu, htbusy, Bool.false_and]
  exact ⟨rxComplete_of_idle b htbusy, rxComplete_of_idle b hubusy⟩

/-- Settles O58: two characters leave what the second alone leaves; the first read answers it and clears `RXC`, so the
second finds no byte. -/
theorem overrunKeepsTheLaterByte : Obligations.OverrunKeepsTheLaterByte := by
  intro s b₁ b₂ hrxen hinit t
  have ht : t = { s with uart := s.uart.receive b₂ } :=
    calc t = rxComplete b₂ (rxStart { s with uart := s.uart.receive b₁ }) :=
          congrArg (rxComplete b₂ ∘ rxStart) (rxComplete_rxStart b₁ hrxen)
      _ = { s with uart := (s.uart.receive b₁).receive b₂ } :=
          rxComplete_rxStart b₂ ((Uart.receive_rxen b₁ s.uart).trans hrxen)
      _ = { s with uart := s.uart.receive b₂ } := by rw [Uart.receive_receive]
  rw [ht]
  have hread := exec_serialReadByte_of_present (s := { s with uart := s.uart.receive b₂ })
    ((Uart.receive_uInit b₂ s.uart).trans hinit) (Uart.receive_rxc b₂ s.uart)
  exact ⟨_, _, _, Uart.receive_rxdata_toNat b₂ s.uart, hread, rfl, rxc_setRxc _ false,
    exec_serialReadByte_of_absent hinit (rxc_setRxc _ false), (mem_insertCode .cv3 .cv3 _).mpr (.inl rfl)⟩

/-- Settles O10: the reset state has every component uninitialised, nothing to receive, send or count, and `GIE` 0. -/
theorem onlyThreeCommandsRunAtReset : Obligations.OnlyThreeCommandsRunAtReset := by
  refine ⟨fun i => ?_, fun i => ?_, hwEvent_of_quiet rfl rfl rfl rfl, rfl, rfl⟩
  · rcases exec_reset_next_or_refused i with ⟨hruns, hnext⟩ | ⟨hnot, r, hr⟩
    · exact iff_of_true hnext hruns
    · exact iff_of_false (by simp [hr]) hnot
  · exact (exec_reset_next_or_refused i).imp And.right And.right

end Sys2Proof.Machine
end
